-- ==== Sys2Proof/Word.lean ====
section
/-! DEFINITION. The bit-vector types of PWMSC's fields, words and registers (10_state.md R10, 30_encoding.md R40, R41). -/

namespace Sys2Proof

/-- A command word, a response data word, a status word or a configuration word (30_encoding.md R40, R43). -/
abbrev Word := BitVec 32

/-- One byte of a byte-wide transport, an opcode, a `vol8` or an `idx` field (20_memory.md R31, 30_encoding.md R41). -/
abbrev Byte := BitVec 8

/-- An `imm16` field: a sample or a requested volume, in two's complement (30_encoding.md R42). -/
abbrev Imm16 := BitVec 16

/-- A pulse width in nanoseconds as a PWM register holds it (10_state.md R14). -/
abbrev Pulse := BitVec 24

end Sys2Proof
end

