-- ==== Sys2Proof/Syntax.lean ====
section
/-! DEFINITION. The ten commands of the command port, one constructor per row of the opcode table (30_encoding.md R44). -/

namespace Sys2Proof

/-- A command with its operand fields as 30_encoding.md R41 lays them out; `Machine/Operands.lean` reads them as R42 says. -/
inductive Instr where
  /-- INIT (42_control.md R85). -/
  | init
  /-- RDST (42_control.md R86). -/
  | rdst
  /-- RDCFG i (42_control.md R88). -/
  | rdcfg (idx : Byte)
  /-- CONV vol, s (40_convert.md R68). -/
  | conv (vol8 : Byte) (imm16 : Imm16)
  /-- EMITM s (40_convert.md R69). -/
  | emitm (imm16 : Imm16)
  /-- EMITL s (40_convert.md R70). -/
  | emitl (imm16 : Imm16)
  /-- EMITR s (40_convert.md R71). -/
  | emitr (imm16 : Imm16)
  /-- MUTE (41_ramp.md R73). -/
  | mute
  /-- UNMUTE (41_ramp.md R74). -/
  | unmute
  /-- SETVOL v (41_ramp.md R76). -/
  | setvol (imm16 : Imm16)
  deriving DecidableEq, Repr

end Sys2Proof
end

