-- ==== Sys2Proof/WellFormed.lean ====
section
/-! DEFINITION. Which commands have a legal word: all, but for a configuration index above 7 (30_encoding.md R45 item 5). -/

namespace Sys2Proof

/-- Every operand value is legal except an RDCFG index above 7 (30_encoding.md R42, R45 item 5). -/
def Instr.wellFormed : Instr → Bool
  | .init => true
  | .rdst => true
  | .rdcfg idx => decide (idx.toNat ≤ 7)
  | .conv _ _ => true
  | .emitm _ => true
  | .emitl _ => true
  | .emitr _ => true
  | .mute => true
  | .unmute => true
  | .setvol _ => true

end Sys2Proof
end

