-- ==== Sys2Proof/Decode.lean ====
section
/-! DEFINITION. Command words: fields and formats (30_encoding.md R41), illegal words (R45), the total decoder, the encoder (R44, R48), and the byte order of a byte-wide transport (20_memory.md R31, R32). -/

namespace Sys2Proof

/-- Why a word, or a delivery of bytes, is no command. -/
inductive DecodeError where
  /-- 30_encoding.md R45 item 1: `cmd[31:24]` is none of the ten opcodes. -/
  | unassignedOpcode
  /-- R45 item 2: format Z with `cmd[23:0]` not 0. -/
  | formatZ
  /-- R45 item 3: format S with `cmd[23:16]` not 0. -/
  | formatS
  /-- R45 item 4: format X with `cmd[15:0]` not 0. -/
  | formatX
  /-- R45 item 5: RDCFG with an index above 7. -/
  | cfgIndex
  /-- 20_memory.md R32: a delivery of fewer or more than 32 bits, which is no command at all. -/
  | notOneWord
  deriving DecidableEq, Repr

/-! ### Fields -/

/-- `cmd[31:24]`. -/
def opField (w : Word) : Byte := w.extractLsb' 24 8

/-- `cmd[23:16]`: `idx`, `vol8` or must-be-0. -/
def midField (w : Word) : Byte := w.extractLsb' 16 8

/-- `cmd[15:0]`: `imm16` or must-be-0. -/
def lowField (w : Word) : Imm16 := w.extractLsb' 0 16

/-! ### The four formats (30_encoding.md R41) -/

/-- Format Z: bits 23:0 must be 0. -/
def formatZ (w : Word) (i : Instr) : Except DecodeError Instr :=
  if midField w = 0#8 ∧ lowField w = 0#16 then .ok i else .error .formatZ

/-- Format S: bits 23:16 must be 0; `imm16` is the operand. -/
def formatS (w : Word) (mk : Imm16 → Instr) : Except DecodeError Instr :=
  if midField w = 0#8 then .ok (mk (lowField w)) else .error .formatS

/-- Format X: bits 15:0 must be 0 and the index at most 7 (R45 items 4 and 5). -/
def formatX (w : Word) (mk : Byte → Instr) : Except DecodeError Instr :=
  if lowField w ≠ 0#16 then .error .formatX
  else if 7 < (midField w).toNat then .error .cfgIndex
  else .ok (mk (midField w))

/-- Format VS: both fields are operands. -/
def formatVS (w : Word) (mk : Byte → Imm16 → Instr) : Except DecodeError Instr :=
  .ok (mk (midField w) (lowField w))

/-- The decoder, total on all `2^32` words (30_encoding.md R44, R45). -/
def decode (w : Word) : Except DecodeError Instr :=
  if opField w = 0x01#8 then formatZ w .init
  else if opField w = 0x02#8 then formatZ w .rdst
  else if opField w = 0x03#8 then formatX w .rdcfg
  else if opField w = 0x10#8 then formatVS w .conv
  else if opField w = 0x11#8 then formatS w .emitm
  else if opField w = 0x12#8 then formatS w .emitl
  else if opField w = 0x13#8 then formatS w .emitr
  else if opField w = 0x20#8 then formatZ w .mute
  else if opField w = 0x21#8 then formatZ w .unmute
  else if opField w = 0x22#8 then formatS w .setvol
  else .error .unassignedOpcode

/-! ### The encoder (30_encoding.md R44, R48) -/

/-- A word from its three fields. -/
def packWord (op mid : Byte) (low : Imm16) : Word := op ++ mid ++ low

/-- `cmd[31:24]` of each command (30_encoding.md R44). -/
def opcodeOf : Instr → Byte
  | .init => 0x01#8
  | .rdst => 0x02#8
  | .rdcfg _ => 0x03#8
  | .conv _ _ => 0x10#8
  | .emitm _ => 0x11#8
  | .emitl _ => 0x12#8
  | .emitr _ => 0x13#8
  | .mute => 0x20#8
  | .unmute => 0x21#8
  | .setvol _ => 0x22#8

/-- The word of a command (30_encoding.md R48). -/
def encode (i : Instr) : Word :=
  match i with
  | .init => packWord (opcodeOf i) 0#8 0#16
  | .rdst => packWord (opcodeOf i) 0#8 0#16
  | .rdcfg idx => packWord (opcodeOf i) idx 0#16
  | .conv vol8 imm16 => packWord (opcodeOf i) vol8 imm16
  | .emitm imm16 => packWord (opcodeOf i) 0#8 imm16
  | .emitl imm16 => packWord (opcodeOf i) 0#8 imm16
  | .emitr imm16 => packWord (opcodeOf i) 0#8 imm16
  | .mute => packWord (opcodeOf i) 0#8 0#16
  | .unmute => packWord (opcodeOf i) 0#8 0#16
  | .setvol imm16 => packWord (opcodeOf i) 0#8 imm16

/-! ### Bytes of a transport (20_memory.md R31, R32) -/

/-- A word as a byte-wide transport carries it: `w[7:0]` first (R31). -/
def bytesOfWord (w : Word) : List Byte :=
  [w.extractLsb' 0 8, w.extractLsb' 8 8, w.extractLsb' 16 8, w.extractLsb' 24 8]

/-- Exactly four bytes make a word, the first its lowest; any other delivery is none (R31, R32). -/
def wordOfBytes : List Byte → Option Word
  | [b0, b1, b2, b3] => some (b3 ++ b2 ++ b1 ++ b0)
  | _ => none

/-- The decoder on any bytes. -/
def decodeBytes (bs : List Byte) : Except DecodeError Instr :=
  match wordOfBytes bs with
  | some w => decode w
  | none => .error .notOneWord

/-- The word an opcode-table row of `nbits` bits stands for, every bit above `nbits` zero. -/
def tableWord (nbits w : Nat) : Word := BitVec.ofNat 32 (w % 2 ^ nbits)

/-- What the decoder reads from a table row's bits, laid out as R31 stores them. -/
def decodeTableWord (nbits w : Nat) : Option Instr :=
  match decodeBytes (bytesOfWord (tableWord nbits w)) with
  | .ok i => some i
  | .error _ => none

end Sys2Proof
end

