-- ==== Sys2Proof/Config.lean ====
section
/-! DEFINITION. The parameters fixed when the block is built (00_scope.md R3, R4) and the three reference configurations (R6). -/

namespace Sys2Proof

/-- The six parameters of 00_scope.md R4, one configuration record constant for a whole run (R3).
Their legal ranges are `Machine.legal`. -/
structure Params where
  /-- `MAX_VOLUME`, the greatest value of Volume. -/
  maxVolume : Nat
  /-- `STEP_COUNT`, the number of ticks in one ramp. -/
  stepCount : Nat
  /-- `RAMP_DURATION_US`, timing only. -/
  rampDurationUs : Nat
  /-- `PERIOD_NS`, the fixed PWM period; no value in the source. -/
  periodNs : Nat
  /-- `MIN_MARGIN_NS`, the margin kept clear at both ends of the period. -/
  minMarginNs : Nat
  /-- `SAMPLE_RATE_HZ`, diagnostics and host timing only; no value in the source. -/
  sampleRateHz : Nat
  deriving DecidableEq, Repr

/-- CFG-A of 00_scope.md R6. -/
def Params.cfgA : Params where
  maxVolume := 180
  stepCount := 20
  rampDurationUs := 100000
  periodNs := 25600
  minMarginNs := 100
  sampleRateHz := 16000

/-- CFG-B of 00_scope.md R6: a period that 256 does not divide. -/
def Params.cfgB : Params := { Params.cfgA with periodNs := 10000, minMarginNs := 39 }

/-- CFG-F of 00_scope.md R6: CFG-A with a four-step ramp. -/
def Params.cfgF : Params := { Params.cfgA with stepCount := 4, rampDurationUs := 20000 }

end Sys2Proof
end

