-- ==== Sys2Proof/Machine/State.lean ====
section
/-! DEFINITION. The state of PWMSC (10_state.md R10 to R24), its outputs and inputs (R21, R22), the agents' pending turns and the host's driver program, and the state after reset (R24). -/

namespace Sys2Proof.Machine

/-- A PWM channel: index L = 0, R = 1 (10_state.md R21). -/
inductive Channel where
  | left
  | right
  deriving DecidableEq, Repr

/-- The ramp controller's state (10_state.md R15); the 2-bit code 3 has no constructor (93_implementation_defined.md V5). -/
inductive Fsm where
  | idle
  | rampingToMute
  | rampingToUnmute
  deriving DecidableEq, Repr

/-- The five response codes (60_exceptions.md R105); codes 5 to 15 are never produced (V4). -/
inductive Code where
  | ok
  | errIllegal
  | errNotReady
  | errInit
  | errHwWrite
  deriving DecidableEq, Repr

/-- What a command returns on the response port (30_encoding.md R43). -/
structure Response where
  code : Code
  data : Word
  deriving DecidableEq, Repr

/-- An event of the trace (10_state.md R22). -/
inductive Event where
  /-- The register of the channel now holds the value. -/
  | pwmWritten (ch : Channel) (v : Pulse)
  /-- The hardware refused a write to the channel. -/
  | pwmWriteFailed (ch : Channel)
  /-- A mute ramp completed and committed the silence action. -/
  | silenceAction
  /-- The tick timer was started. -/
  | timerStart
  /-- The tick timer was stopped. -/
  | timerStop
  deriving DecidableEq, Repr

/-- A task of the host's driver program: one word, or a pseudo-instruction (43_host_sequences.md). -/
inductive HostTask where
  /-- One word on the command port, whatever it is. -/
  | word (w : Word)
  /-- EMITS l, r (R97). -/
  | emits (l r : Imm16)
  /-- PLAY.M buf (R95). -/
  | playM (buf : List Imm16)
  /-- PLAY.S buf, interleaved (R96). -/
  | playS (buf : List Imm16)
  /-- RAMPWAIT (R98). -/
  | rampWait
  /-- BRINGUP (R99). -/
  | bringup
  /-- SHUTDOWN (R99). -/
  | shutdown
  deriving DecidableEq, Repr

/-- One turn of some agent (00_scope.md R7, 30_encoding.md R48). -/
inductive Turn where
  /-- Some host presents one whole word on the command port (30_encoding.md R51). -/
  | word (w : Word)
  /-- A byte-wide transport makes one delivery to the command port (20_memory.md R31, R32). -/
  | bytes (bs : List Byte)
  /-- The driver program of the host makes its next move (43_host_sequences.md). -/
  | host
  /-- The host's program goes on with one more task, so that it need not be finite (DESIGN CHOICE, log entry 10). -/
  | submit (task : HostTask)
  /-- The tick timer is given a step; it takes one if TIMER_RUN = 1 (41_ramp.md R78). -/
  | tick
  /-- The environment drives `pwm_ok[L]` and `pwm_ok[R]` from here on (30_encoding.md R48). -/
  | env (okL okR : Bool)
  /-- The reset input is asserted (70_reset_and_hazards.md R120). -/
  | reset
  deriving DecidableEq, Repr

/-- Where the host is inside the task it has begun. -/
inductive HostPhase where
  /-- Between tasks. -/
  | idle
  /-- EMITS: EMITL is done, EMITR is next. -/
  | emitRight (r : Imm16)
  /-- PLAY.M: the samples still to emit. -/
  | playMono (rest : List Imm16)
  /-- PLAY.S: the samples still to emit, the next one a left one. -/
  | playStereo (rest : List Imm16)
  /-- PLAY.S: EMITL of a frame is done, EMITR is next. -/
  | playStereoRight (r : Imm16) (rest : List Imm16)
  /-- Polling RDST until the ramp is over, and then disabling the amplifier if so told. -/
  | polling (thenDisable : Bool)
  /-- BRINGUP: INIT succeeded, UNMUTE is next. -/
  | unmuting
  deriving DecidableEq, Repr

/-- What a task of the host returned. -/
inductive HostResult where
  /-- `Ok` of PLAY.M and PLAY.S (R95, R96). -/
  | ok
  /-- `NotReady` (R95). -/
  | notReady
  /-- `HardwareWriteError(channel = d)` (R95, R96). -/
  | hardwareWriteError (d : Word)
  /-- `InitError(d)` (R99). -/
  | initError (d : Word)
  /-- The end of a task to which the spec gives no return value. -/
  | done
  deriving DecidableEq, Repr

/-- The host's driver program (43_host_sequences.md). -/
structure HostState where
  tasks : List HostTask
  phase : HostPhase
  results : List HostResult
  /-- What the host last told the actuator, which is outside the block (R99, 70_reset_and_hazards.md R127). -/
  ampOn : Bool
  deriving DecidableEq, Repr

/-- The machine: the nine items of 10_state.md R10, the configuration record, the inputs and outputs of R21 and R22,
and the pending turns of the agents. -/
structure State where
  /-- The parameter record (00_scope.md R3); no step writes it. -/
  cfg : Params
  /-- `VOL` (R11). -/
  vol : Byte
  /-- `START_VOL` (R12). -/
  startVol : Byte
  /-- `PROGRESS` (R13). -/
  progress : BitVec 16
  /-- `PWM_L`: unwritten, or a pulse width (R14). -/
  pwmL : Option Pulse
  /-- `PWM_R`: unwritten, or a pulse width (R14). -/
  pwmR : Option Pulse
  /-- `FSM` (R15). -/
  fsm : Fsm
  /-- `MUTED` (R16). -/
  muted : Bool
  /-- `INITED` (R16). -/
  inited : Bool
  /-- `TIMER_RUN` (R16). -/
  timerRun : Bool
  /-- The input `pwm_ok[L]` (R21). -/
  pwmOkL : Bool
  /-- The input `pwm_ok[R]` (R21). -/
  pwmOkR : Bool
  /-- What the response port has returned in this run, oldest first (30_encoding.md R43). -/
  responses : List Response
  /-- The event trace of this run, oldest first (R22). -/
  events : List Event
  /-- The turns the agents will take, in order; unconstrained (60_exceptions.md R113). -/
  turns : List Turn
  /-- The host's driver program. -/
  host : HostState
  deriving DecidableEq, Repr

/-- The reasons for which the block stops with a fault: none. Every state has a defined response to every command
word and to every tick (93_implementation_defined.md section 3); an error is a response code (60_exceptions.md R108).
Safe: a type without constructors hides no behaviour. -/
inductive Fault where
  deriving DecidableEq, Repr

/-- The reasons for which the model has no next state. -/
inductive Refusal where
  /-- Raised by a refused arm of `exec` only: an instruction without a meaning yet. Safe: nothing is claimed of it. -/
  | notModelled (mnemonic : String)
  /-- Raised by `step` alone, in a state whose parameters are outside 00_scope.md R4: the model does not build such
  a configuration (93_implementation_defined.md V8). Safe: nothing is claimed of it. -/
  | illegalConfiguration
  /-- Raised by the host's driver when it starts PLAY.S on an odd number of samples: the pseudo-instruction is not
  defined for it (43_host_sequences.md R96, W8 of 93_implementation_defined.md). Safe: nothing is claimed of it. -/
  | oddStereoBuffer
  deriving DecidableEq, Repr

/-- A host that has nothing to do and has not enabled the amplifier (DESIGN CHOICE, log entry 14). -/
def HostState.quiet : HostState where
  tasks := []
  phase := .idle
  results := []
  ampOn := false

/-- The state after reset for a configuration (10_state.md R24); nothing is pending (log entry 16) and both inputs
accept writes (DESIGN CHOICE, log entry 4). -/
def State.resetWith (c : Params) : State where
  cfg := c
  vol := 0#8
  startVol := 0#8
  progress := 0#16
  pwmL := none
  pwmR := none
  fsm := .idle
  muted := true
  inited := false
  timerRun := false
  pwmOkL := true
  pwmOkR := true
  responses := []
  events := []
  turns := []
  host := .quiet

/-- The machine right after reset, built with CFG-A (DESIGN CHOICE, log entry 1: the spec leaves the parameters open). -/
def State.reset : State := State.resetWith Params.cfgA

end Sys2Proof.Machine
end

