-- ==== Sys2Proof/Machine/Operands.lean ====
section
/-! DEFINITION. Operand assembly (30_encoding.md R42) and the integer operations of the spec's notation (00_scope.md section 7.1). -/

namespace Sys2Proof.Machine

/-- `sext_16(cmd[15:0])`: a sample, or a requested volume (30_encoding.md R42). -/
def sext16 (imm : Imm16) : Int :=
  if imm.toNat < 2 ^ 15 then (imm.toNat : Int) else (imm.toNat : Int) - 2 ^ 16

/-- `zext_8(cmd[23:16])`: an explicit volume, or a configuration index (30_encoding.md R42). -/
def zext8 (b : Byte) : Nat := b.toNat

/-- `fdiv(a, b)`, `b > 0`: the floor of the quotient. -/
def fdiv (a b : Int) : Int := a / b

/-- `tdiv(a, b)`, `b > 0`: the quotient rounded toward zero. -/
def tdiv (a b : Int) : Int := if 0 ≤ a then fdiv a b else -fdiv (-a) b

/-- `clamp(x, lo, hi)`, `lo <= hi`. -/
def clamp (x lo hi : Int) : Int := if x < lo then lo else if hi < x then hi else x

end Sys2Proof.Machine
end

