-- ==== Sys2Proof/Machine/Constants.lean ====
section
/-! DEFINITION. The legal ranges of the parameters (00_scope.md R4), the derived constants (R5) and the configuration words (10_state.md R19). -/

namespace Sys2Proof.Machine

/-- The legal ranges of 00_scope.md R4. -/
abbrev legal (c : Params) : Prop :=
  (1 ≤ c.maxVolume ∧ c.maxVolume ≤ 255) ∧
  (1 ≤ c.stepCount ∧ c.stepCount ≤ 65535) ∧
  (1 ≤ c.rampDurationUs ∧ c.rampDurationUs ≤ 2 ^ 32 - 1) ∧
  (256 ≤ c.periodNs ∧ c.periodNs ≤ 2 ^ 24 - 1) ∧
  (1 ≤ c.minMarginNs ∧ c.minMarginNs ≤ c.periodNs / 2) ∧
  (1 ≤ c.sampleRateHz ∧ c.sampleRateHz ≤ 2 ^ 32 - 1)

/-- Building the block: an illegal configuration is refused (00_scope.md R4, 93_implementation_defined.md V8). -/
def build (c : Params) : Option State :=
  if legal c then some (State.resetWith c) else none

/-- `SILENCE_NS` (00_scope.md R5). -/
def silenceNs (c : Params) : Nat := c.periodNs / 2

/-- `PULSE_LO` (R5). -/
def pulseLo (c : Params) : Nat := c.minMarginNs

/-- `PULSE_HI` (R5). -/
def pulseHi (c : Params) : Nat := c.periodNs - c.minMarginNs

/-- `TICK_PERIOD_US` (R5, 70_reset_and_hazards.md R133); timing only. -/
def tickPeriodUs (c : Params) : Nat := c.rampDurationUs / c.stepCount

/-- `CARRIER_HZ` (R5). -/
def carrierHz (c : Params) : Nat := 10 ^ 9 / c.periodNs

/-- `SILENCE_NS` as a PWM register holds it. -/
def silencePulse (c : Params) : Pulse := BitVec.ofNat 24 (silenceNs c)

/-- `CFG[i]` (10_state.md R19); indices 8 to 255 do not exist. -/
def cfgWord (c : Params) (i : Nat) : Option Word :=
  match i with
  | 0 => some (BitVec.ofNat 32 c.maxVolume)
  | 1 => some (BitVec.ofNat 32 c.stepCount)
  | 2 => some (BitVec.ofNat 32 c.rampDurationUs)
  | 3 => some (BitVec.ofNat 32 c.periodNs)
  | 4 => some (BitVec.ofNat 32 c.minMarginNs)
  | 5 => some (BitVec.ofNat 32 c.sampleRateHz)
  | 6 => some (BitVec.ofNat 32 (carrierHz c))
  | 7 => some (BitVec.ofNat 32 (silenceNs c))
  | _ => none

end Sys2Proof.Machine
end

