-- ==== Sys2Proof/Machine/Flags.lean ====
section
/-! DEFINITION. The codes of the ramp state and of the channels, the response code numbers, and the STATUS word (10_state.md R15, R18, R21; 60_exceptions.md R105). -/

namespace Sys2Proof.Machine

/-- The 2-bit code of `FSM` (10_state.md R15). -/
def fsmCode : Fsm → BitVec 2
  | .idle => 0#2
  | .rampingToMute => 1#2
  | .rampingToUnmute => 2#2

/-- The number of a response code (60_exceptions.md R105). -/
def codeNumber : Code → BitVec 4
  | .ok => 0#4
  | .errIllegal => 1#4
  | .errNotReady => 2#4
  | .errInit => 3#4
  | .errHwWrite => 4#4

/-- The channel index: L = 0, R = 1 (10_state.md R21, 30_encoding.md R43). -/
def channelIndex : Channel → Word
  | .left => 0#32
  | .right => 1#32

/-- `STATUS = PROGRESS ++ 0b000 ++ TIMER_RUN ++ FSM ++ INITED ++ MUTED ++ VOL` (10_state.md R18). -/
def statusWord (s : State) : Word :=
  s.progress ++ 0#3 ++ BitVec.ofBool s.timerRun ++ fsmCode s.fsm ++ BitVec.ofBool s.inited ++
    BitVec.ofBool s.muted ++ s.vol

end Sys2Proof.Machine
end

