-- ==== Sys2Proof/Machine/Ops.lean ====
section
/-! DEFINITION. The shared operations: responding (which stands for taking an exception, 60_exceptions.md R108), emitting an event (10_state.md R22), the readiness gate (42_control.md R87), the write primitive (40_convert.md R67) and reset (70_reset_and_hazards.md R120). -/

namespace Sys2Proof.Machine

/-- `respond(CODE, data)`: the one response of a command. There is no trap: a non-OK response saves nothing, changes no
mode and goes nowhere (60_exceptions.md R108), so this is also all there is to taking an exception and to returning. -/
def respond (code : Code) (data : Word) (s : State) : State :=
  { s with responses := s.responses ++ [⟨code, data⟩] }

/-- `emit E`: append to the event trace (10_state.md R22). -/
def emit (e : Event) (s : State) : State :=
  { s with events := s.events ++ [e] }

/-- The answer to an illegal word: `(ERR_ILLEGAL, 0)`, nothing else changed (30_encoding.md R45). -/
def respondIllegal (s : State) : State := respond .errIllegal 0#32 s

/-- The readiness gate (42_control.md R87): with `INITED = 0` the command changes nothing and returns
`(ERR_NOT_READY, 0)`; otherwise its body runs. -/
def gated (body : State → State) (s : State) : State :=
  if s.inited then body s else respond .errNotReady 0#32 s

/-- `sample(pwm_ok[ch])` (10_state.md R21). -/
def pwmOk (ch : Channel) (s : State) : Bool :=
  match ch with
  | .left => s.pwmOkL
  | .right => s.pwmOkR

/-- The register of a channel (10_state.md R14). -/
def pwmReg (ch : Channel) (s : State) : Option Pulse :=
  match ch with
  | .left => s.pwmL
  | .right => s.pwmR

/-- `PWM_ch <- p`. -/
def setPwm (ch : Channel) (p : Pulse) (s : State) : State :=
  match ch with
  | .left => { s with pwmL := some p }
  | .right => { s with pwmR := some p }

/-- The state `PwmWrite(ch, p)` leaves (40_convert.md R67); it succeeds exactly when `pwmOk ch s`. -/
def pwmWrite (ch : Channel) (p : Pulse) (s : State) : State :=
  if pwmOk ch s then emit (.pwmWritten ch p) (setPwm ch p s) else emit (.pwmWriteFailed ch) s

/-- Asserting the reset input (70_reset_and_hazards.md R120): every piece of the block's state takes its value of
10_state.md R24 and the new run's trace is empty. The parameters, the inputs, the pending turns and the host are not
the block's state and stay (log entry 15). -/
def assertReset (s : State) : State :=
  { State.resetWith s.cfg with pwmOkL := s.pwmOkL, pwmOkR := s.pwmOkR, turns := s.turns, host := s.host }

end Sys2Proof.Machine
end

