-- ==== Sys2Proof/Machine/Control.lean ====
section
/-! DEFINITION. The control and status commands INIT, RDST and RDCFG (42_control.md R85, R86, R88). -/

namespace Sys2Proof.Machine

/-- ERR_INIT's data: bit 0 says that L is not ready, bit 1 that R is not (30_encoding.md R43). -/
def notReadyMask (okL okR : Bool) : Word := 0#30 ++ BitVec.ofBool (!okR) ++ BitVec.ofBool (!okL)

/-- INIT in a state where it has not succeeded yet: both inputs are tested before either register is written (R85). -/
def initDevice (s : State) : State :=
  if s.pwmOkL && s.pwmOkR then
    let t := pwmWrite .right (silencePulse s.cfg) (pwmWrite .left (silencePulse s.cfg) s)
    respond .ok 0#32 { t with inited := true }
  else respond .errInit (notReadyMask s.pwmOkL s.pwmOkR) s

/-- INIT (42_control.md R85): idempotent once it has succeeded. -/
def execInit (s : State) : Host.Outcome State Fault Refusal :=
  .next (if s.inited then respond .ok 0#32 s else initDevice s)

/-- RDST (42_control.md R86). -/
def execRdst (s : State) : Host.Outcome State Fault Refusal :=
  .next (respond .ok (statusWord s) s)

/-- RDCFG (42_control.md R88); an index that does not exist makes the command illegal (10_state.md R19). -/
def execRdcfg (idx : Byte) (s : State) : Host.Outcome State Fault Refusal :=
  .next (match cfgWord s.cfg (zext8 idx) with
    | some w => respond .ok w s
    | none => respondIllegal s)

end Sys2Proof.Machine
end

