-- ==== Sys2Proof/Machine/Convert.lean ====
section
/-! DEFINITION. The conversion function, one definition per stage (40_convert.md R60 to R65). -/

namespace Sys2Proof.Machine

/-- Stage 1, scale (40_convert.md R60): the product over 256, rounded toward zero. -/
def scaled (s v : Int) : Int := tdiv (s * v) 256

/-- Stage 2, clip (R61). -/
def clipped (s v : Int) : Int := clamp (scaled s v) (-128) 127

/-- Stage 3, offset (R62). -/
def unsignedCode (s v : Int) : Int := clipped s v + 128

/-- Stage 4, map to nanoseconds (R63): multiply first, then divide. -/
def pulseNs (c : Params) (s v : Int) : Int := fdiv (unsignedCode s v * c.periodNs) 256

/-- `convert(s, v)` (R65): stage 5, the guard rails (R64), over stage 4. -/
def convert (c : Params) (s v : Int) : Int :=
  clamp (pulseNs c s v) (c.minMarginNs : Int) ((c.periodNs : Int) - c.minMarginNs)

/-- `convert` as a PWM register holds it; the value fits 24 bits in every legal configuration (10_state.md R14). -/
def convertPulse (c : Params) (imm : Imm16) (vol : Byte) : Pulse :=
  BitVec.ofInt 24 (convert c (sext16 imm) (zext8 vol))

/-- A pulse width as response data, zero-extended (30_encoding.md R43). -/
def pulseData (p : Pulse) : Word := p.setWidth 32

end Sys2Proof.Machine
end

