-- ==== Sys2Proof/Machine/Conversion.lean ====
section
/-! DEFINITION. The conversion and emission commands CONV, EMITM, EMITL and EMITR (40_convert.md R68 to R71). -/

namespace Sys2Proof.Machine

/-- Write one channel and answer: the pulse width if the write was accepted, the failing channel if not
(40_convert.md R70, R71). -/
def emitChannel (ch : Channel) (p : Pulse) (s : State) : State :=
  if pwmOk ch s then respond .ok (pulseData p) (pwmWrite ch p s)
  else respond .errHwWrite (channelIndex ch) (pwmWrite ch p s)

/-- Write both channels, left first; a failed left write stops the command before the right one (R69). -/
def emitBoth (p : Pulse) (s : State) : State :=
  if pwmOk .left s then emitChannel .right p (pwmWrite .left p s)
  else respond .errHwWrite (channelIndex .left) (pwmWrite .left p s)

/-- CONV vol, s (40_convert.md R68): never gated. -/
def execConv (vol8 : Byte) (imm16 : Imm16) (s : State) : Host.Outcome State Fault Refusal :=
  .next (respond .ok (pulseData (convertPulse s.cfg imm16 vol8)) s)

/-- EMITM s (R69). -/
def execEmitm (imm16 : Imm16) (s : State) : Host.Outcome State Fault Refusal :=
  .next (gated (fun s => emitBoth (convertPulse s.cfg imm16 s.vol) s) s)

/-- EMITL s (R70). -/
def execEmitl (imm16 : Imm16) (s : State) : Host.Outcome State Fault Refusal :=
  .next (gated (fun s => emitChannel .left (convertPulse s.cfg imm16 s.vol) s) s)

/-- EMITR s (R71). -/
def execEmitr (imm16 : Imm16) (s : State) : Host.Outcome State Fault Refusal :=
  .next (gated (fun s => emitChannel .right (convertPulse s.cfg imm16 s.vol) s) s)

end Sys2Proof.Machine
end

