-- ==== Sys2Proof/Machine/Ramp.lean ====
section
/-! DEFINITION. The ramp controller: RampStart (41_ramp.md R75), MUTE, UNMUTE, SETVOL (R73, R74, R76), RampVolume (R77), the TICK step (R78, R79) and the terminal silence action (R80). -/

namespace Sys2Proof.Machine

/-- The direction of a ramp (41_ramp.md R75). -/
inductive Dir where
  | toMute
  | toUnmute
  deriving DecidableEq, Repr

/-- `FSM` while a ramp of this direction runs. -/
def dirFsm : Dir → Fsm
  | .toMute => .rampingToMute
  | .toUnmute => .rampingToUnmute

/-- `MUTED` as a ramp start of this direction sets it. -/
def dirMuted : Dir → Bool
  | .toMute => true
  | .toUnmute => false

/-- Start the tick timer if it is not running (R75, R81). -/
def startTimer (s : State) : State :=
  if s.timerRun then s else emit .timerStart { s with timerRun := true }

/-- `RampStart(dir)` (R75); `VOL` is not written. -/
def rampStart (dir : Dir) (s : State) : State :=
  startTimer { s with startVol := s.vol, progress := 0#16, muted := dirMuted dir, fsm := dirFsm dir }

/-- A ramp request: the guard is on `MUTED` alone, and a request in the target end state is a no-op (R72). -/
def rampRequest (dir : Dir) (s : State) : State :=
  if s.muted = dirMuted dir then respond .ok 0#32 s else respond .ok 1#32 (rampStart dir s)

/-- MUTE (41_ramp.md R73). -/
def execMute (s : State) : Host.Outcome State Fault Refusal :=
  .next (gated (rampRequest .toMute) s)

/-- UNMUTE (R74). -/
def execUnmute (s : State) : Host.Outcome State Fault Refusal :=
  .next (gated (rampRequest .toUnmute) s)

/-- The volume SETVOL stores (R76): the request clamped to 0..MAX_VOLUME. -/
def setvolValue (c : Params) (imm16 : Imm16) : Byte :=
  BitVec.ofInt 8 (clamp (sext16 imm16) 0 c.maxVolume)

/-- SETVOL v (R76): `VOL` only; no ramp is started or stopped. -/
def execSetvol (imm16 : Imm16) (s : State) : Host.Outcome State Fault Refusal :=
  .next (gated (fun s =>
    respond .ok ((setvolValue s.cfg imm16).setWidth 32) { s with vol := setvolValue s.cfg imm16 }) s)

/-- `RampVolume(dir, start, p)` (R77). -/
def rampVolume (c : Params) (dir : Dir) (start p : Nat) : Int :=
  match dir with
  | .toUnmute => fdiv (c.maxVolume * p) c.stepCount
  | .toMute => start - fdiv (start * p) c.stepCount

/-- The terminal silence action (R80): both writes are attempted and their results ignored. -/
def silenceAction (s : State) : State :=
  pwmWrite .right (silencePulse s.cfg) (pwmWrite .left (silencePulse s.cfg) (emit .silenceAction s))

/-- What the last tick of a ramp does once `VOL` is written: the timer stops, PROGRESS returns to 0, a mute ramp
commits the silence action, FSM returns to Idle (R78). -/
def rampEnd (dir : Dir) (s : State) : State :=
  let stopped := emit .timerStop { s with timerRun := false, progress := 0#16 }
  let silenced := match dir with
    | .toMute => silenceAction stopped
    | .toUnmute => stopped
  { silenced with fsm := .idle }

/-- One tick of a ramp in a direction: increment, write `VOL` from the incremented step number, test for the end (R78). -/
def rampTick (dir : Dir) (s : State) : State :=
  let p := s.progress.toNat + 1
  let moved := { s with vol := BitVec.ofInt 8 (rampVolume s.cfg dir s.startVol.toNat p) }
  if p = s.cfg.stepCount then rampEnd dir moved else { moved with progress := BitVec.ofNat 16 p }

/-- TICK (R78); a tick in Idle changes nothing (R79). -/
def tick (s : State) : State :=
  match s.fsm with
  | .idle => s
  | .rampingToMute => rampTick .toMute s
  | .rampingToUnmute => rampTick .toUnmute s

/-- A turn of the timer agent: its step is enabled exactly when `TIMER_RUN = 1` (R78, R81). -/
def timerTurn (s : State) : State := if s.timerRun then tick s else s

end Sys2Proof.Machine
end

