-- ==== Sys2Proof/Machine/Dispatch.lean ====
section
/-! DEFINITION. The meaning of each command, one arm per row of the opcode table (30_encoding.md R44). -/

namespace Sys2Proof.Machine

def exec (i : Instr) (s : State) : Host.Outcome State Fault Refusal :=
  match i with
  | .init => Sys2Proof.Machine.execInit s
  | .rdst => Sys2Proof.Machine.execRdst s
  | .rdcfg idx => Sys2Proof.Machine.execRdcfg idx s
  | .conv vol8 imm16 => Sys2Proof.Machine.execConv vol8 imm16 s
  | .emitm imm16 => Sys2Proof.Machine.execEmitm imm16 s
  | .emitl imm16 => Sys2Proof.Machine.execEmitl imm16 s
  | .emitr imm16 => Sys2Proof.Machine.execEmitr imm16 s
  | .mute => Sys2Proof.Machine.execMute s
  | .unmute => Sys2Proof.Machine.execUnmute s
  | .setvol imm16 => Sys2Proof.Machine.execSetvol imm16 s

end Sys2Proof.Machine
end

