-- ==== Sys2Proof/Machine/Port.lean ====
section
/-! DEFINITION. The command port: one word in, one step, one response out (30_encoding.md R47, R51), and a byte-wide transport in front of it (20_memory.md R31, R32). -/

namespace Sys2Proof.Machine

/-- A word on the command port: illegality is tested first (30_encoding.md R47); an illegal word is answered and
changes nothing else (R45). -/
def command (w : Word) (s : State) : Host.Outcome State Fault Refusal :=
  match decode w with
  | .ok i => exec i s
  | .error _ => .next (respondIllegal s)

/-- One delivery of a byte-wide transport: exactly 32 bits are a command, of anything else the block sees nothing
(20_memory.md R32). -/
def deliver (bs : List Byte) (s : State) : Host.Outcome State Fault Refusal :=
  match wordOfBytes bs with
  | some w => command w s
  | none => .next s

end Sys2Proof.Machine
end

