-- ==== Sys2Proof/Machine/Driver.lean ====
section
/-! DEFINITION. The host's driver program: the command sequences EMITS, PLAY.M, PLAY.S, RAMPWAIT, BRINGUP and SHUTDOWN (43_host_sequences.md R95 to R99). One turn of the host issues at most one command and acts on its response. -/

namespace Sys2Proof.Machine

/-- The host goes on in this phase. -/
def hostPhase (p : HostPhase) (s : State) : State :=
  { s with host := { s.host with phase := p } }

/-- The host's task ends with this result. -/
def hostFinish (r : HostResult) (s : State) : State :=
  { s with host := { s.host with phase := .idle, results := s.host.results ++ [r] } }

/-- The host's program goes on with one more task (DESIGN CHOICE, log entry 10). -/
def hostSubmit (task : HostTask) (s : State) : State :=
  { s with host := { s.host with tasks := s.host.tasks ++ [task] } }

/-- The host drives the amplifier's enable line, which is outside the block (R99). -/
def hostAmp (on : Bool) (s : State) : State :=
  { s with host := { s.host with ampOn := on } }

/-- Issue one command on the port and go on with its response. -/
def ask (i : Instr) (k : Response → State → State) (s : State) : Host.Outcome State Fault Refusal :=
  match command (encode i) s with
  | .next t =>
    match t.responses.getLast? with
    | some r => .next (k r t)
    | none => .next t
  | .fault f => .fault f
  | .refused r => .refused r

/-- The next iteration of PLAY.M's loop, or its `return Ok` (R95). -/
def continueMono (rest : List Imm16) (s : State) : State :=
  match rest with
  | [] => hostFinish .ok s
  | _ :: _ => hostPhase (.playMono rest) s

/-- The next iteration of PLAY.S's loop, or its `return Ok` (R96). -/
def continueStereo (rest : List Imm16) (s : State) : State :=
  match rest with
  | [] => hostFinish .ok s
  | _ :: _ => hostPhase (.playStereo rest) s

/-- The checks a `play` makes once per buffer: `st[9]` is INITED, `st[8]` is MUTED (R95). -/
def playCheck (begin : State → State) (r : Response) (s : State) : State :=
  if r.data.getLsbD 9 = false then hostFinish .notReady s
  else if r.data.getLsbD 8 then hostFinish .ok s
  else begin s

/-- The abort of a buffer: `HardwareWriteError(channel = d)`, or go on (R95, R96). -/
def unlessHwError (k : State → State) (r : Response) (s : State) : State :=
  if r.code = .errHwWrite then hostFinish (.hardwareWriteError r.data) s else k s

/-- After EMITM of PLAY.M: a write failure or ERR_NOT_READY ends the buffer (R95). -/
def afterMono (rest : List Imm16) (r : Response) (s : State) : State :=
  if r.code = .errNotReady then hostFinish .notReady s
  else unlessHwError (continueMono rest) r s

/-- One poll of RAMPWAIT: over when `st[11:10] = 0` (R98); SHUTDOWN then disables the amplifier (R99). The
spec does not say whether another agent's step may fall between the last poll and `disable()`; the model disables the
amplifier in the step of that poll (DESIGN CHOICE, log entry 24). -/
def afterPoll (thenDisable : Bool) (r : Response) (s : State) : State :=
  if r.data.extractLsb' 10 2 = 0#2 then
    hostFinish .done (if thenDisable then hostAmp false s else s)
  else hostPhase (.polling thenDisable) s

/-- BRINGUP after INIT: `InitError(d)`, or enable the amplifier and then UNMUTE (R99). The spec does not say
whether another agent's step may fall between INIT's `OK` and `enable()`; the model enables the amplifier in the step of
that INIT (DESIGN CHOICE, log entry 24). -/
def afterInit (r : Response) (s : State) : State :=
  if r.code = .ok then hostPhase .unmuting (hostAmp true s) else hostFinish (.initError r.data) s

/-- The first command of a task. -/
def startTask (t : HostTask) (s : State) : Host.Outcome State Fault Refusal :=
  match t with
  | .word w =>
    match command w s with
    | .next u => .next (hostFinish .done u)
    | .fault f => .fault f
    | .refused r => .refused r
  | .emits l r => ask (.emitl l) (unlessHwError (hostPhase (.emitRight r))) s
  | .playM buf => ask .rdst (playCheck (continueMono buf)) s
  | .playS buf =>
    if buf.length % 2 = 0 then ask .rdst (playCheck (continueStereo buf)) s
    else .refused .oddStereoBuffer
  | .rampWait => ask .rdst (afterPoll false) s
  | .bringup => ask .init afterInit s
  | .shutdown => ask .mute (fun _ => hostPhase (.polling true)) s

/-- One turn of the host: the next command of the task it is in, or the first of its next task; with nothing to do
it does nothing. What the spec gives no return value for records a result of the model's choice: an EMITS whose EMITL or
EMITR failed records `hardwareWriteError` of that channel, every other end of EMITS, RAMPWAIT, SHUTDOWN and of a BRINGUP
that succeeded records `done` (DESIGN CHOICE, log entry 10). -/
def hostTurn (s : State) : Host.Outcome State Fault Refusal :=
  match s.host.phase with
  | .idle =>
    match s.host.tasks with
    | [] => .next s
    | t :: ts => startTask t { s with host := { s.host with tasks := ts } }
  | .emitRight r => ask (.emitr r) (unlessHwError (hostFinish .done)) s
  | .playMono [] => .next (hostFinish .ok s)
  | .playMono (x :: rest) => ask (.emitm x) (afterMono rest) s
  | .playStereo [] => .next (hostFinish .ok s)
  | .playStereo [_] => .refused .oddStereoBuffer
  | .playStereo (l :: r :: rest) => ask (.emitl l) (unlessHwError (hostPhase (.playStereoRight r rest))) s
  | .playStereoRight r rest => ask (.emitr r) (unlessHwError (continueStereo rest)) s
  | .polling thenDisable => ask .rdst (afterPoll thenDisable) s
  | .unmuting => ask .unmute (fun _ => hostFinish .done) s

end Sys2Proof.Machine
end

