-- ==== Sys2Proof/Machine/Agents.lean ====
section
/-! DEFINITION. The agents and their turns (00_scope.md R7, R8; 60_exceptions.md R112, R113; 70_reset_and_hazards.md R120, R132). -/

namespace Sys2Proof.Machine

/-- One turn of an agent, one atomic step (00_scope.md R8). -/
def takeTurn (t : Turn) (s : State) : Host.Outcome State Fault Refusal :=
  match t with
  | .word w => command w s
  | .bytes bs => deliver bs s
  | .host => hostTurn s
  | .submit task => .next (hostSubmit task s)
  | .tick => .next (timerTurn s)
  | .env okL okR => .next { s with pwmOkL := okL, pwmOkR := okR }
  | .reset => .next (assertReset s)

/-- With no turn prescribed the timer, if it runs, is served first (a legal refinement, 60_exceptions.md R113, and
the fairness of 70_reset_and_hazards.md R132), then the host's driver; with neither the machine waits (log entry 3). -/
def freeTurn (s : State) : Host.Outcome State Fault Refusal :=
  if s.timerRun then .next (timerTurn s) else hostTurn s

/-- One step of the machine in a legal configuration. -/
def runTurn (s : State) : Host.Outcome State Fault Refusal :=
  match s.turns with
  | t :: ts => takeTurn t { s with turns := ts }
  | [] => freeTurn s

end Sys2Proof.Machine
end

