-- ==== Sys2Proof/Machine/Step.lean ====
section
/-! DEFINITION. One step of the machine, and the placing of a command as the next thing it runs. -/

namespace Sys2Proof.Machine

/-- One atomic step (00_scope.md R8); an illegal configuration is refused (93_implementation_defined.md V8). -/
def step (s : State) : Host.Outcome State Fault Refusal :=
  if legal s.cfg then runTurn s else .refused .illegalConfiguration

/-- The command presented as the very next turn, before the turns already pending. -/
def State.withFetchWord (s : State) (nbits w : Nat) : State :=
  { s with turns := .word (tableWord nbits w) :: s.turns }

end Sys2Proof.Machine
end

