-- ==== Sys2Proof/Machine/Schedule.lean ====
section
/-! DEFINITION. Infinite runs of the machine and the fairness of the timer agent (70_reset_and_hazards.md R132): the agents' turns come from an unending schedule, one a step, and the state holds none of it (DESIGN CHOICE, log entry 23). -/

namespace Sys2Proof.Machine

/-- One step in which the agents offer this turn before any turn the state already lists. -/
def stepWith (x : Turn) (s : State) : Host.Outcome State Fault Refusal := step { s with turns := x :: s.turns }

/-- An infinite run (20_memory.md R35, 60_exceptions.md R113): `sched n` is the turn taken at step `n`, and `states n` the
state before it. Every placement of ticks and every endless host program is some schedule. -/
def InfiniteRun (sched : Nat → Turn) (states : Nat → State) : Prop :=
  ∀ n, stepWith (sched n) (states n) = .next (states (n + 1))

/-- Fairness (70_reset_and_hazards.md R132): the run does not, from some point on, keep TIMER_RUN = 1 and take no TICK. -/
def Fair (sched : Nat → Turn) (states : Nat → State) : Prop :=
  ∀ n, ∃ m, n ≤ m ∧ ((states m).timerRun = false ∨ sched m = .tick)

/-- The states that a schedule leads through; where a turn is refused the state stays. -/
def statesOf (sched : Nat → Turn) (s : State) : Nat → State
  | 0 => s
  | n + 1 =>
    match stepWith (sched n) (statesOf sched s n) with
    | .next t => t
    | .fault _ => statesOf sched s n
    | .refused _ => statesOf sched s n

end Sys2Proof.Machine
end

