-- ==== Sys2Proof/Safety.lean ====
section
/-! DEFINITION. The terms in which claims speak of a run: the invariant of 10_state.md R20, illegal words (30_encoding.md R45), gated commands (42_control.md R87), the end of a run (70_reset_and_hazards.md R131), the completion of a mute ramp (41_ramp.md R80). -/

namespace Sys2Proof.Machine

/-- The invariant of 10_state.md R20, item by item. -/
structure Invariant (s : State) : Prop where
  /-- Item 1. -/
  vol_le : s.vol.toNat ≤ s.cfg.maxVolume
  /-- Item 1. -/
  startVol_le : s.startVol.toNat ≤ s.cfg.maxVolume
  /-- Item 2. -/
  progress_lt : s.progress.toNat < s.cfg.stepCount
  /-- Item 3. -/
  idle_progress : s.fsm = .idle → s.progress = 0#16
  /-- Item 4. -/
  timer_iff : s.timerRun = true ↔ s.fsm ≠ .idle
  /-- Item 5. -/
  toMute_muted : s.fsm = .rampingToMute → s.muted = true
  /-- Item 5. -/
  toUnmute_unmuted : s.fsm = .rampingToUnmute → s.muted = false
  /-- Item 6. -/
  timer_inited : s.timerRun = true → s.inited = true
  /-- Item 6. -/
  unmuted_inited : s.muted = false → s.inited = true
  /-- Item 7. -/
  pwmL_range : ∀ p, s.pwmL = some p → pulseLo s.cfg ≤ p.toNat ∧ p.toNat ≤ pulseHi s.cfg
  /-- Item 7. -/
  pwmR_range : ∀ p, s.pwmR = some p → pulseLo s.cfg ≤ p.toNat ∧ p.toNat ≤ pulseHi s.cfg
  /-- Item 8. -/
  inited_written : s.inited = true → s.pwmL.isSome = true ∧ s.pwmR.isSome = true

/-- The five cases of 30_encoding.md R45, on the word as a number. -/
def IllegalWord (w : Word) : Prop :=
  let op := w.toNat / 2 ^ 24
  let mid := w.toNat / 2 ^ 16 % 2 ^ 8
  let low := w.toNat % 2 ^ 16
  op ∉ [0x01, 0x02, 0x03, 0x10, 0x11, 0x12, 0x13, 0x20, 0x21, 0x22] ∨
  (op ∈ [0x01, 0x02, 0x20, 0x21] ∧ w.toNat % 2 ^ 24 ≠ 0) ∨
  (op ∈ [0x11, 0x12, 0x13, 0x22] ∧ mid ≠ 0) ∨
  (op = 0x03 ∧ low ≠ 0) ∨
  (op = 0x03 ∧ 7 < mid)

/-- The commands behind the readiness gate (42_control.md R87). -/
def Gated : Instr → Bool
  | .init => false
  | .rdst => false
  | .rdcfg _ => false
  | .conv _ _ => false
  | .emitm _ => true
  | .emitl _ => true
  | .emitr _ => true
  | .mute => true
  | .unmute => true
  | .setvol _ => true

/-- A turn that brings a command of some host: a word, a delivery of a whole word, or a task. A tick, new inputs, a
reset and a move of the driver bring none. -/
def bringsCommand : Turn → Bool
  | .word _ => true
  | .bytes bs => (wordOfBytes bs).isSome
  | .host => false
  | .submit _ => true
  | .tick => false
  | .env _ _ => false
  | .reset => false

/-- The end of a run (70_reset_and_hazards.md R131): no host has a further command to issue, none is in progress, and
the timer owes no tick. What the environment still does is left open. -/
def Finished (s : State) : Prop :=
  (∀ x ∈ s.turns, bringsCommand x = false) ∧ s.host.tasks = [] ∧ s.host.phase = .idle ∧ s.timerRun = false

/-- The next step is the last tick of a mute ramp (41_ramp.md R78, R80): it is the timer's turn, the timer runs, and
the mute ramp has one tick to go. With no turn listed a running timer has the turn (log entry 3). -/
def CompletesMuteRamp (s : State) : Prop :=
  (s.turns = [] ∨ s.turns.head? = some .tick) ∧ s.timerRun = true ∧ s.fsm = .rampingToMute ∧
    s.progress.toNat + 1 = s.cfg.stepCount

/-- The volume at which the ramp in progress ends (41_ramp.md R77): 0 for a mute ramp, MAX_VOLUME for an unmute ramp. -/
def rampTarget (s : State) : Nat :=
  match s.fsm with
  | .rampingToUnmute => s.cfg.maxVolume
  | .rampingToMute => 0
  | .idle => s.vol.toNat

/-- How many silence actions a trace holds (10_state.md R22). -/
def silences (s : State) : Nat := s.events.count .silenceAction

/-- `k` steps of the machine. -/
def run (k : Nat) (s : State) : Host.Outcome State Fault Refusal := Host.Core.run Sys2Proof.core k s

/-- Whether each channel accepts a write now (10_state.md R21). -/
def BothReady (s : State) : Prop := s.pwmOkL = true ∧ s.pwmOkR = true

end Sys2Proof.Machine
end

