-- ==== Sys2Proof/Certificates/Slice0/Obligations.lean ====
section
/-! DEFINITION. The statements about PWMSC for the provers, from the numbered rules of spec/. -/

open Sys2Proof Sys2Proof.Machine

/-! ### Encoding -/

/-- 30_encoding.md R41, R44, R48 and 20_memory.md R31: no operand bit of any well-formed command is lost, as a word or
as the four bytes of a transport. -/
def Obligations.DecodeOfEncodeIsTheCommand : Prop :=
  ∀ i : Instr, i.wellFormed = true →
    decode (encode i) = .ok i ∧ decodeBytes (bytesOfWord (encode i)) = .ok i

/-- 30_encoding.md R44, R45: each legal word has one meaning, which encodes to that very word. -/
def Obligations.DecodedWordReencodes : Prop :=
  ∀ (w : Word) (i : Instr), decode w = .ok i → i.wellFormed = true ∧ encode i = w

/-- 30_encoding.md R44 (the spec's decision D20): the match and mask columns, with the exact RDCFG mask of the rule's
last paragraph. -/
def Obligations.MatchAndMaskDecideTheCommand : Prop :=
  ∀ w : Word,
    (w &&& 0xFFFFFFFF#32 = 0x01000000#32 ↔ decode w = .ok .init) ∧
    (w &&& 0xFFFFFFFF#32 = 0x02000000#32 ↔ decode w = .ok .rdst) ∧
    (w &&& 0xFFF8FFFF#32 = 0x03000000#32 ↔ ∃ idx, decode w = .ok (.rdcfg idx)) ∧
    (w &&& 0xFF000000#32 = 0x10000000#32 ↔ ∃ vol8 imm, decode w = .ok (.conv vol8 imm)) ∧
    (w &&& 0xFFFF0000#32 = 0x11000000#32 ↔ ∃ imm, decode w = .ok (.emitm imm)) ∧
    (w &&& 0xFFFF0000#32 = 0x12000000#32 ↔ ∃ imm, decode w = .ok (.emitl imm)) ∧
    (w &&& 0xFFFF0000#32 = 0x13000000#32 ↔ ∃ imm, decode w = .ok (.emitr imm)) ∧
    (w &&& 0xFFFFFFFF#32 = 0x20000000#32 ↔ decode w = .ok .mute) ∧
    (w &&& 0xFFFFFFFF#32 = 0x21000000#32 ↔ decode w = .ok .unmute) ∧
    (w &&& 0xFFFF0000#32 = 0x22000000#32 ↔ ∃ imm, decode w = .ok (.setvol imm))

/-- 30_encoding.md R45: a word is illegal exactly in the five cases, every other word is a command, and an illegal word
is answered `(ERR_ILLEGAL, 0)` and changes nothing else, so the next command finds the state as it was. -/
def Obligations.IllegalWordsAreExactlyTheFiveCases : Prop :=
  ∀ w : Word,
    ((∃ e, decode w = .error e) ↔ IllegalWord w) ∧
    (¬ IllegalWord w → ∃ i, decode w = .ok i ∧ i.wellFormed = true) ∧
    (IllegalWord w → ∀ s : State,
      command w s = .next { s with responses := s.responses ++ [⟨.errIllegal, 0#32⟩] })

/-- 30_encoding.md R48: the words of the assembler, as numbers; `s mod 2^16` is the operand read as R42 reads it. -/
def Obligations.AssembledWordsCarryTheirOperands : Prop :=
  (encode .init).toNat = 0x01000000 ∧ (encode .rdst).toNat = 0x02000000 ∧
  (encode .mute).toNat = 0x20000000 ∧ (encode .unmute).toNat = 0x21000000 ∧
  (∀ idx : Byte, (encode (.rdcfg idx)).toNat = 0x03000000 + zext8 idx * 2 ^ 16) ∧
  ∀ imm : Imm16,
    (∀ vol8 : Byte,
      ((encode (.conv vol8 imm)).toNat : Int) = 0x10000000 + zext8 vol8 * 2 ^ 16 + sext16 imm % 2 ^ 16) ∧
    ((encode (.emitm imm)).toNat : Int) = 0x11000000 + sext16 imm % 2 ^ 16 ∧
    ((encode (.emitl imm)).toNat : Int) = 0x12000000 + sext16 imm % 2 ^ 16 ∧
    ((encode (.emitr imm)).toNat : Int) = 0x13000000 + sext16 imm % 2 ^ 16 ∧
    ((encode (.setvol imm)).toNat : Int) = 0x22000000 + sext16 imm % 2 ^ 16

/-- 30_encoding.md R42: a sample or requested volume is the two's complement value of its field, and every value of
the range has its field. -/
def Obligations.OperandsAreSignAndZeroExtended : Prop :=
  (∀ imm : Imm16, sext16 imm = imm.toInt ∧ -32768 ≤ sext16 imm ∧ sext16 imm ≤ 32767) ∧
  (∀ x : Int, -32768 ≤ x → x ≤ 32767 → sext16 (BitVec.ofInt 16 x) = x) ∧
  (∀ b : Byte, zext8 b ≤ 255 ∧ BitVec.ofNat 8 (zext8 b) = b)

/-- 20_memory.md R31, R32: the byte at the lowest address is `w[7:0]`, a whole word arrives whole, and of any other
delivery the block sees nothing, which the model reads as a step that changes nothing (log entry 9). -/
def Obligations.BytesOfAWordAreLittleEndian : Prop :=
  ∀ (w : Word) (s : State),
    (bytesOfWord w).map BitVec.toNat =
      [w.toNat % 256, w.toNat / 256 % 256, w.toNat / 256 ^ 2 % 256, w.toNat / 256 ^ 3 % 256] ∧
    deliver (bytesOfWord w) s = command w s ∧
    ∀ bs : List Byte, bs.length ≠ 4 → deliver bs s = .next s

/-- Words of 30_encoding.md R48 and 95_test_vectors.md sections 2.2 and 2.3. -/
def Obligations.DecodedWordsOfTheManual : Prop :=
  decode 0x01000000#32 = .ok .init ∧ decode 0x03070000#32 = .ok (.rdcfg 7#8) ∧
  decode 0x10B4FFFF#32 = .ok (.conv 180#8 (-1#16)) ∧ decode 0x1100FF9C#32 = .ok (.emitm (-100#16)) ∧
  decode 0x1200FFFE#32 = .ok (.emitl (-2#16)) ∧ decode 0x13000100#32 = .ok (.emitr 256#16) ∧
  decode 0x21000000#32 = .ok .unmute ∧ decode 0x22008000#32 = .ok (.setvol 0x8000#16) ∧
  decode 0x03080000#32 = .error .cfgIndex ∧ decode 0x12FF0000#32 = .error .formatS ∧
  decode 0x00000000#32 = .error .unassignedOpcode

/-! ### The step -/

/-- 30_encoding.md R43, R45, R51 and 20_memory.md R31, R32: the step whose next turn presents a word, whole or as the bytes of
a transport, is the port's answer to that word in the state with that turn taken: the command's meaning if the word is
legal, `(ERR_ILLEGAL, 0)` and nothing else if not; a delivery that is not one word changes nothing (log entry 9). -/
def Obligations.StepRunsTheDecodedCommand : Prop :=
  ∀ (s : State) (ts : List Turn), legal s.cfg →
    (∀ w : Word, s.turns = .word w :: ts → step s = command w { s with turns := ts }) ∧
    (∀ bs : List Byte, s.turns = .bytes bs :: ts → step s = deliver bs { s with turns := ts } ∧
      (bs.length ≠ 4 → step s = .next { s with turns := ts })) ∧
    (∀ w : Word, s.turns = .word w :: ts ∨ s.turns = .bytes (bytesOfWord w) :: ts →
      (∀ i : Instr, decode w = .ok i → step s = exec i { s with turns := ts }) ∧
      (∀ e, decode w = .error e → step s =
        .next { s with turns := ts, responses := s.responses ++ [⟨.errIllegal, 0#32⟩] }))

/-- What a step does with each other turn, and with none; that with no turn prescribed the running timer goes first
and then the host, and that a host's program may gain tasks, is the model's choice (log entries 3 and 10). -/
def Obligations.StepGivesEachAgentItsTurn : Prop :=
  ∀ (s : State) (ts : List Turn), legal s.cfg →
    (s.turns = .tick :: ts → step s = .next (timerTurn { s with turns := ts })) ∧
    (∀ l r : Bool, s.turns = .env l r :: ts →
      step s = .next { s with turns := ts, pwmOkL := l, pwmOkR := r }) ∧
    (s.turns = .host :: ts → step s = hostTurn { s with turns := ts }) ∧
    (∀ task : HostTask, s.turns = .submit task :: ts → step s =
      .next { s with turns := ts, host := { s.host with tasks := s.host.tasks ++ [task] } }) ∧
    (s.turns = [] → s.timerRun = true → step s = .next (timerTurn s)) ∧
    (s.turns = [] → s.timerRun = false → step s = hostTurn s)

/-- 00_scope.md R4 and 93_implementation_defined.md V8: a configuration outside the legal ranges is not built and not
run; a legal one is built in its reset state. -/
def Obligations.IllegalConfigurationIsRefused : Prop :=
  ∀ s : State,
    (¬ legal s.cfg → step s = .refused .illegalConfiguration ∧ build s.cfg = none) ∧
    (legal s.cfg → build s.cfg = some (State.resetWith s.cfg))

/-- 10_state.md R24 (the spec's decision D16): the table of reset values, after the reset input is asserted in any state, and in the state that
the model starts in. -/
def Obligations.ResetLeavesTheResetValues : Prop :=
  (∀ (s : State) (ts : List Turn), legal s.cfg → s.turns = .reset :: ts →
    ∃ t, step s = .next t ∧ t.vol = 0#8 ∧ t.startVol = 0#8 ∧ t.progress = 0#16 ∧ t.pwmL = none ∧ t.pwmR = none ∧
      t.fsm = .idle ∧ t.muted = true ∧ t.inited = false ∧ t.timerRun = false ∧ t.events = [] ∧ t.cfg = s.cfg) ∧
  (∀ c : Params, (State.resetWith c).vol = 0#8 ∧ (State.resetWith c).startVol = 0#8 ∧
    (State.resetWith c).progress = 0#16 ∧ (State.resetWith c).pwmL = none ∧ (State.resetWith c).pwmR = none ∧
    (State.resetWith c).fsm = .idle ∧ (State.resetWith c).muted = true ∧ (State.resetWith c).inited = false ∧
    (State.resetWith c).timerRun = false ∧ (State.resetWith c).events = [] ∧ (State.resetWith c).cfg = c)

/-- 70_reset_and_hazards.md R120: reset is the only way INITED returns to 0 and the only way a PWM register becomes
unwritten again. -/
def Obligations.OnlyResetUndoesInitAndWrites : Prop :=
  ∀ s t : State, step s = .next t → s.turns.head? ≠ some .reset →
    (s.inited = true → t.inited = true) ∧
    (s.pwmL.isSome = true → t.pwmL.isSome = true) ∧
    (s.pwmR.isSome = true → t.pwmR.isSome = true)

/-- 10_state.md R20: every step, of whatever agent, keeps the eight items. -/
def Obligations.StepKeepsTheInvariant : Prop :=
  ∀ s t : State, Invariant s → step s = .next t → Invariant t

/-- 10_state.md R20, R24: the eight items hold after reset in every legal configuration; the last
clause is about CFG-A, the model's choice (log entry 1). -/
def Obligations.ResetMeetsTheInvariant : Prop :=
  (∀ c : Params, legal c → Invariant (State.resetWith c)) ∧ Invariant State.reset

/-- 10_state.md R20: the eight items, which the spec marks derived, hold in every state reached from reset, whatever
the turns of the agents, the inputs and the host's program. -/
def Obligations.ReachableStatesMeetTheInvariant : Prop :=
  ∀ (c : Params) (okL okR : Bool) (ts : List Turn) (h : HostState) (k : Nat) (t : State), legal c →
    run k { State.resetWith c with pwmOkL := okL, pwmOkR := okR, turns := ts, host := h } = .next t → Invariant t

/-- 00_scope.md R3: the parameters are constant for the whole run. -/
def Obligations.NoStepChangesTheParameters : Prop :=
  ∀ (k : Nat) (s t : State), run k s = .next t → t.cfg = s.cfg

/-- 93_implementation_defined.md section 3: every command word, every tick and every input has a next state; the only
stop in a legal configuration is a host's PLAY.S on an odd count (43_host_sequences.md R96), whose refusal is the model's
(log entry 13). The last clause is the model's choice too: with no turn listed a running timer goes before the host
(log entry 3). -/
def Obligations.EveryTurnHasANextState : Prop :=
  ∀ s : State, legal s.cfg →
    ((∃ t, step s = .next t) ∨ step s = .refused .oddStereoBuffer) ∧
    (∀ (x : Turn) (ts : List Turn), s.turns = x :: ts → x ≠ .host → ∃ t, step s = .next t) ∧
    (s.turns = [] → s.timerRun = true → ∃ t, step s = .next t)

/-! ### The conversion -/

/-- 40_convert.md R60: the ranges of the product and of the quotient, which the spec marks derived, and the rounding
toward zero, which it marks its own choice (D26) and the model fixes (log entry 17). -/
def Obligations.ScaleRoundsTowardZero : Prop :=
  ∀ s v : Int, -32768 ≤ s → s ≤ 32767 → 0 ≤ v → v ≤ 255 →
    (-8355840 ≤ s * v ∧ s * v ≤ 8355585) ∧
    (-32640 ≤ scaled s v ∧ scaled s v ≤ 32639) ∧
    (0 ≤ s * v → 256 * scaled s v ≤ s * v ∧ s * v < 256 * scaled s v + 256) ∧
    (s * v < 0 → s * v ≤ 256 * scaled s v ∧ 256 * scaled s v - 256 < s * v) ∧
    scaled (-1) 180 = 0

/-- 40_convert.md R61: the clip and its thresholds, and that it is silent (CONV answers OK and leaves no event). -/
def Obligations.ClipSaturatesAtTheThresholds : Prop :=
  (∀ s v : Int, -32768 ≤ s → s ≤ 32767 → 0 ≤ v → v ≤ 255 →
    (-128 ≤ clipped s v ∧ clipped s v ≤ 127) ∧
    (32512 ≤ s * v ↔ clipped s v = 127) ∧
    (s * v ≤ -32768 ↔ clipped s v = -128) ∧
    (-33024 < s * v → s * v < 32768 → clipped s v = scaled s v)) ∧
  (∀ s : Int, -32768 ≤ s → s ≤ 32767 →
    (181 ≤ s → clipped s 180 = 127) ∧ (s ≤ -183 → clipped s 180 = -128) ∧
    clipped s 1 = scaled s 1 ∧ (32512 ≤ s → scaled s 1 = 127) ∧ (s = -32768 → scaled s 1 = -128)) ∧
  (∀ (vol8 : Byte) (imm : Imm16) (s : State), ∃ d, exec (.conv vol8 imm) s =
    .next { s with responses := s.responses ++ [⟨.ok, d⟩] })

/-- 40_convert.md R62 and R63: the unsigned code is 0 to 255, the product fits 32 bits, and the pulse is the floor of
the exact quotient, multiplied first. -/
def Obligations.CodeAndPulseStayInRange : Prop :=
  ∀ (c : Params) (s v : Int), legal c →
    (0 ≤ unsignedCode s v ∧ unsignedCode s v ≤ 255) ∧ unsignedCode s v = clipped s v + 128 ∧
    unsignedCode s v * c.periodNs < 2 ^ 32 ∧
    256 * pulseNs c s v ≤ unsignedCode s v * c.periodNs ∧
    unsignedCode s v * c.periodNs < 256 * pulseNs c s v + 256 ∧
    0 ≤ pulseNs c s v ∧ pulseNs c s v ≤ fdiv (255 * c.periodNs) 256 ∧ pulseNs c s v < c.periodNs

/-- 40_convert.md R64: both rails are inclusive, a pulse between them is not moved, and with the reference margin only
the code 0 is moved. -/
def Obligations.GuardRailsKeepTheMargins : Prop :=
  ∀ (c : Params) (s v : Int), legal c →
    ((c.minMarginNs : Int) ≤ convert c s v ∧ convert c s v ≤ (c.periodNs : Int) - c.minMarginNs) ∧
    ((c.minMarginNs : Int) ≤ pulseNs c s v → pulseNs c s v ≤ (c.periodNs : Int) - c.minMarginNs →
      convert c s v = pulseNs c s v) ∧
    (pulseNs c s v < c.minMarginNs → convert c s v = c.minMarginNs) ∧
    ((c.periodNs : Int) - c.minMarginNs < pulseNs c s v → convert c s v = (c.periodNs : Int) - c.minMarginNs) ∧
    (c.minMarginNs = c.periodNs / 256 → unsignedCode s v = 0 → pulseNs c s v = 0 ∧ convert c s v = c.minMarginNs) ∧
    (c.minMarginNs = c.periodNs / 256 → unsignedCode s v ≠ 0 → convert c s v = pulseNs c s v)

/-- 40_convert.md R66, items 1 to 6, of which the spec marks the last four derived. -/
def Obligations.ConversionProperties : Prop :=
  ∀ c : Params, legal c →
    (∀ s v : Int, -32768 ≤ s → s ≤ 32767 → 0 ≤ v → v ≤ 255 →
      (pulseLo c : Int) ≤ convert c s v ∧ convert c s v ≤ pulseHi c) ∧
    (∀ s : Int, convert c s 0 = silenceNs c) ∧
    (∀ v : Int, convert c 0 v = silenceNs c) ∧
    (∀ s v : Int, -256 < s * v → s * v < 256 → convert c s v = silenceNs c) ∧
    (∀ s₁ s₂ v : Int, 0 ≤ v → s₁ ≤ s₂ → convert c s₁ v ≤ convert c s₂ v) ∧
    (∀ s v : Int, clipped (-s) v = -clipped s v ∨
      (clipped s v = -128 ∧ clipped (-s) v = 127) ∨ (clipped s v = 127 ∧ clipped (-s) v = -128))

/-- 40_convert.md R68 (ungated by the spec's decision D30): CONV answers the pulse width of its own volume in every state, before INIT as after, and changes
nothing else; every word under opcode 0x10 is a CONV. -/
def Obligations.ConvAnswersThePulse : Prop :=
  (∀ (vol8 : Byte) (imm : Imm16) (s : State), legal s.cfg →
    ∃ p : Pulse, (p.toNat : Int) = convert s.cfg (sext16 imm) (zext8 vol8) ∧
      exec (.conv vol8 imm) s = .next { s with responses := s.responses ++ [⟨.ok, p.setWidth 32⟩] }) ∧
  (∀ w : Word, w.toNat / 2 ^ 24 = 0x10 → ∃ vol8 imm, decode w = .ok (.conv vol8 imm))

/-! ### Writing the PWM registers -/

/-- 40_convert.md R67: an accepted write sets the one register and leaves its event; a refused write leaves its event
and the register as it was. -/
def Obligations.PwmWriteLandsOrFails : Prop :=
  ∀ (p : Pulse) (s : State),
    (s.pwmOkL = true → pwmWrite .left p s =
      { s with pwmL := some p, events := s.events ++ [.pwmWritten .left p] }) ∧
    (s.pwmOkL = false → pwmWrite .left p s = { s with events := s.events ++ [.pwmWriteFailed .left] }) ∧
    (s.pwmOkR = true → pwmWrite .right p s =
      { s with pwmR := some p, events := s.events ++ [.pwmWritten .right p] }) ∧
    (s.pwmOkR = false → pwmWrite .right p s = { s with events := s.events ++ [.pwmWriteFailed .right] })

/-- 40_convert.md R69: EMITM converts with VOL, writes left and then right, stops at the first failed write, and is
refused before INIT; MUTED plays no part, and at VOL = 0 the value is SILENCE_NS. -/
def Obligations.EmitmWritesBothChannels : Prop :=
  ∀ (imm : Imm16) (s : State), legal s.cfg →
    (s.inited = false → exec (.emitm imm) s =
      .next { s with responses := s.responses ++ [⟨.errNotReady, 0#32⟩] }) ∧
    (s.inited = true → ∃ p : Pulse, (p.toNat : Int) = convert s.cfg (sext16 imm) s.vol.toNat ∧
      (s.vol = 0#8 → p.toNat = s.cfg.periodNs / 2) ∧
      (s.pwmOkL = true → s.pwmOkR = true → exec (.emitm imm) s = .next { s with
        pwmL := some p, pwmR := some p
        events := s.events ++ [.pwmWritten .left p, .pwmWritten .right p]
        responses := s.responses ++ [⟨.ok, p.setWidth 32⟩] }) ∧
      (s.pwmOkL = true → s.pwmOkR = false → exec (.emitm imm) s = .next { s with
        pwmL := some p
        events := s.events ++ [.pwmWritten .left p, .pwmWriteFailed .right]
        responses := s.responses ++ [⟨.errHwWrite, 1#32⟩] }) ∧
      (s.pwmOkL = false → exec (.emitm imm) s = .next { s with
        events := s.events ++ [.pwmWriteFailed .left]
        responses := s.responses ++ [⟨.errHwWrite, 0#32⟩] }))

/-- 40_convert.md R70: EMITL writes the left channel alone and does not look at `pwm_ok[R]`. -/
def Obligations.EmitlWritesTheLeftChannel : Prop :=
  ∀ (imm : Imm16) (s : State), legal s.cfg →
    (s.inited = false → exec (.emitl imm) s =
      .next { s with responses := s.responses ++ [⟨.errNotReady, 0#32⟩] }) ∧
    (s.inited = true → ∃ p : Pulse, (p.toNat : Int) = convert s.cfg (sext16 imm) s.vol.toNat ∧
      (s.pwmOkL = true → exec (.emitl imm) s = .next { s with
        pwmL := some p
        events := s.events ++ [.pwmWritten .left p]
        responses := s.responses ++ [⟨.ok, p.setWidth 32⟩] }) ∧
      (s.pwmOkL = false → exec (.emitl imm) s = .next { s with
        events := s.events ++ [.pwmWriteFailed .left]
        responses := s.responses ++ [⟨.errHwWrite, 0#32⟩] }))

/-- 40_convert.md R71: EMITR writes the right channel alone and does not look at `pwm_ok[L]`. -/
def Obligations.EmitrWritesTheRightChannel : Prop :=
  ∀ (imm : Imm16) (s : State), legal s.cfg →
    (s.inited = false → exec (.emitr imm) s =
      .next { s with responses := s.responses ++ [⟨.errNotReady, 0#32⟩] }) ∧
    (s.inited = true → ∃ p : Pulse, (p.toNat : Int) = convert s.cfg (sext16 imm) s.vol.toNat ∧
      (s.pwmOkR = true → exec (.emitr imm) s = .next { s with
        pwmR := some p
        events := s.events ++ [.pwmWritten .right p]
        responses := s.responses ++ [⟨.ok, p.setWidth 32⟩] }) ∧
      (s.pwmOkR = false → exec (.emitr imm) s = .next { s with
        events := s.events ++ [.pwmWriteFailed .right]
        responses := s.responses ++ [⟨.errHwWrite, 1#32⟩] }))

/-- 40_convert.md R69 to R71: the emission commands neither read nor write MUTED, FSM, PROGRESS and START_VOL. -/
def Obligations.EmissionIgnoresMuteAndRamp : Prop :=
  ∀ (i : Instr) (imm : Imm16), i = .emitm imm ∨ i = .emitl imm ∨ i = .emitr imm →
    ∀ (s t : State) (m : Bool) (f : Fsm) (q : BitVec 16) (sv : Byte), exec i s = .next t →
      exec i { s with muted := m, fsm := f, progress := q, startVol := sv } =
        .next { t with muted := m, fsm := f, progress := q, startVol := sv }

/-! ### Control and status -/

/-- 42_control.md R85: INIT once INITED = 1 changes nothing; before, it writes silence to both channels or, if either
is not ready, neither, and says which. -/
def Obligations.InitIsAllOrNothing : Prop :=
  ∀ s : State, legal s.cfg →
    (s.inited = true → exec .init s = .next { s with responses := s.responses ++ [⟨.ok, 0#32⟩] }) ∧
    (s.inited = false → s.pwmOkL = true → s.pwmOkR = true →
      ∃ q : Pulse, q.toNat = s.cfg.periodNs / 2 ∧ exec .init s = .next { s with
        pwmL := some q, pwmR := some q, inited := true
        events := s.events ++ [.pwmWritten .left q, .pwmWritten .right q]
        responses := s.responses ++ [⟨.ok, 0#32⟩] }) ∧
    (s.inited = false → ¬ BothReady s →
      ∃ d : Word, d.toNat = (if s.pwmOkL = true then 0 else 1) + (if s.pwmOkR = true then 0 else 2) ∧
        exec .init s = .next { s with responses := s.responses ++ [⟨.errInit, d⟩] })

/-- 42_control.md R86 and 10_state.md R18: RDST answers the status word, field by field, in every state, and changes
nothing else. -/
def Obligations.RdstAnswersTheStatusWord : Prop :=
  (∀ s : State, ∃ st : Word,
    exec .rdst s = .next { s with responses := s.responses ++ [⟨.ok, st⟩] } ∧
    st.extractLsb' 0 8 = s.vol ∧ st.getLsbD 8 = s.muted ∧ st.getLsbD 9 = s.inited ∧
    st.extractLsb' 10 2 = (match s.fsm with
      | .idle => 0#2
      | .rampingToMute => 1#2
      | .rampingToUnmute => 2#2) ∧
    st.extractLsb' 10 2 ≠ 3#2 ∧ st.getLsbD 12 = s.timerRun ∧ st.extractLsb' 13 3 = 0#3 ∧
    st.extractLsb' 16 16 = s.progress) ∧
  (∀ c : Params, statusWord (State.resetWith c) = 0x00000100#32)

/-- 42_control.md R88 and 10_state.md R19: RDCFG answers the configuration word of its index, the same in every state of
a run and before INIT as after; indices 8 to 255 do not exist, and their words are illegal. That exec of such
a command answers as its word does is the model's deduction (log entry 8). -/
def Obligations.RdcfgAnswersTheConfigurationWord : Prop :=
  (∀ (idx : Byte) (s : State), legal s.cfg →
    (idx.toNat ≤ 7 → ∃ d : Word,
      [s.cfg.maxVolume, s.cfg.stepCount, s.cfg.rampDurationUs, s.cfg.periodNs, s.cfg.minMarginNs,
        s.cfg.sampleRateHz, 10 ^ 9 / s.cfg.periodNs, s.cfg.periodNs / 2][idx.toNat]? = some d.toNat ∧
      exec (.rdcfg idx) s = .next { s with responses := s.responses ++ [⟨.ok, d⟩] }) ∧
    (7 < idx.toNat →
      exec (.rdcfg idx) s = .next { s with responses := s.responses ++ [⟨.errIllegal, 0#32⟩] })) ∧
  (∀ (w : Word) (s : State), w.toNat / 2 ^ 24 = 0x03 →
    (7 < w.toNat / 2 ^ 16 % 2 ^ 8 ∨ w.toNat % 2 ^ 16 ≠ 0) →
    command w s = .next { s with responses := s.responses ++ [⟨.errIllegal, 0#32⟩] })

/-- 42_control.md R87 (the spec's decision D33): the six gated commands before INIT change nothing and answer `(ERR_NOT_READY, 0)`; INIT, RDST,
RDCFG and CONV never give that answer; and no command ever closes the gate again. -/
def Obligations.ReadinessGate : Prop :=
  (∀ (i : Instr) (s : State), Gated i = true → s.inited = false →
    exec i s = .next { s with responses := s.responses ++ [⟨.errNotReady, 0#32⟩] }) ∧
  (∀ (i : Instr) (s t : State), Gated i = false → exec i s = .next t →
    ∃ r, t.responses = s.responses ++ [r] ∧ r.code ≠ .errNotReady) ∧
  (∀ s t : State, step s = .next t → s.turns.head? ≠ some .reset → s.inited = true → t.inited = true)

/-! ### The ramp controller -/

/-- 41_ramp.md R73 and R75: MUTE before INIT, as a no-op, and as the start or restart of a mute ramp. -/
def Obligations.MuteStartsARampOrDoesNothing : Prop :=
  ∀ s : State,
    (s.inited = false → exec .mute s = .next { s with responses := s.responses ++ [⟨.errNotReady, 0#32⟩] }) ∧
    (s.inited = true → s.muted = true →
      exec .mute s = .next { s with responses := s.responses ++ [⟨.ok, 0#32⟩] }) ∧
    (s.inited = true → s.muted = false → exec .mute s = .next { s with
      startVol := s.vol, progress := 0#16, muted := true, fsm := .rampingToMute, timerRun := true
      events := s.events ++ (if s.timerRun = true then [] else [.timerStart])
      responses := s.responses ++ [⟨.ok, 1#32⟩] })

/-- 41_ramp.md R74 and R75: UNMUTE before INIT, as a no-op, and as the start or restart of an unmute ramp. -/
def Obligations.UnmuteStartsARampOrDoesNothing : Prop :=
  ∀ s : State,
    (s.inited = false → exec .unmute s = .next { s with responses := s.responses ++ [⟨.errNotReady, 0#32⟩] }) ∧
    (s.inited = true → s.muted = false →
      exec .unmute s = .next { s with responses := s.responses ++ [⟨.ok, 0#32⟩] }) ∧
    (s.inited = true → s.muted = true → exec .unmute s = .next { s with
      startVol := s.vol, progress := 0#16, muted := false, fsm := .rampingToUnmute, timerRun := true
      events := s.events ++ (if s.timerRun = true then [] else [.timerStart])
      responses := s.responses ++ [⟨.ok, 1#32⟩] })

/-- 41_ramp.md R76: SETVOL stores the request clamped to 0..MAX_VOLUME, answers it, and writes nothing else; before INIT
it is refused. -/
def Obligations.SetvolStoresTheClampedVolume : Prop :=
  ∀ (imm : Imm16) (s : State), legal s.cfg →
    (s.inited = false → exec (.setvol imm) s =
      .next { s with responses := s.responses ++ [⟨.errNotReady, 0#32⟩] }) ∧
    (s.inited = true → ∃ c : Byte, (c.toNat : Int) = max 0 (min (sext16 imm) s.cfg.maxVolume) ∧
      exec (.setvol imm) s = .next { s with vol := c, responses := s.responses ++ [⟨.ok, c.setWidth 32⟩] })

/-- 41_ramp.md R72: FSM and MUTED are one of four pairs, and what a request makes of each. -/
def Obligations.RequestsFollowTheStateTable : Prop :=
  ∀ s : State, Invariant s → s.inited = true →
    ((s.fsm, s.muted) ∈ [(Fsm.idle, false), (Fsm.idle, true), (Fsm.rampingToMute, true),
      (Fsm.rampingToUnmute, false)]) ∧
    (∃ t, exec .mute s = .next t ∧ t.muted = true ∧
      (s.muted = true → t.fsm = s.fsm ∧ t.progress = s.progress ∧ t.startVol = s.startVol) ∧
      (s.muted = false → t.fsm = .rampingToMute ∧ t.progress = 0#16 ∧ t.startVol = s.vol) ∧
      t.vol = s.vol ∧ (t.timerRun = true ↔ t.fsm ≠ .idle)) ∧
    (∃ t, exec .unmute s = .next t ∧ t.muted = false ∧
      (s.muted = false → t.fsm = s.fsm ∧ t.progress = s.progress ∧ t.startVol = s.startVol) ∧
      (s.muted = true → t.fsm = .rampingToUnmute ∧ t.progress = 0#16 ∧ t.startVol = s.vol) ∧
      t.vol = s.vol ∧ (t.timerRun = true ↔ t.fsm ≠ .idle))

/-- 41_ramp.md R77: the floor of the linear interpolation, over MAX_VOLUME upward and over the starting volume downward,
exact at the last step; the upward direction does not use the starting volume; no product reaches `2^24`. -/
def Obligations.RampVolumeInterpolates : Prop :=
  ∀ (c : Params) (start p : Nat), legal c → start ≤ c.maxVolume → 1 ≤ p → p ≤ c.stepCount →
    (∃ v : Nat, rampVolume c .toUnmute start p = v ∧ v ≤ c.maxVolume ∧
      c.stepCount * v ≤ c.maxVolume * p ∧ c.maxVolume * p < c.stepCount * v + c.stepCount) ∧
    (∃ v : Nat, rampVolume c .toMute start p = (start : Int) - v ∧ v ≤ start ∧
      c.stepCount * v ≤ start * p ∧ start * p < c.stepCount * v + c.stepCount) ∧
    rampVolume c .toUnmute start c.stepCount = c.maxVolume ∧ rampVolume c .toMute start c.stepCount = 0 ∧
    (∀ other : Nat, rampVolume c .toUnmute other p = rampVolume c .toUnmute start p) ∧
    c.maxVolume * p < 2 ^ 24

/-- 41_ramp.md R82 items 4, 5 and 6: successive volumes of a ramp are monotone, stay in range, and differ by the floor of
the mean step or one more. -/
def Obligations.RampVolumesMoveInEvenSteps : Prop :=
  ∀ (c : Params) (start p : Nat), legal c → start ≤ c.maxVolume → 1 ≤ p → p < c.stepCount →
    (rampVolume c .toUnmute start (p + 1) - rampVolume c .toUnmute start p = (c.maxVolume / c.stepCount : Nat) ∨
      rampVolume c .toUnmute start (p + 1) - rampVolume c .toUnmute start p =
        (c.maxVolume / c.stepCount : Nat) + 1) ∧
    (rampVolume c .toMute start p - rampVolume c .toMute start (p + 1) = (start / c.stepCount : Nat) ∨
      rampVolume c .toMute start p - rampVolume c .toMute start (p + 1) = (start / c.stepCount : Nat) + 1) ∧
    (0 ≤ rampVolume c .toUnmute start p ∧ rampVolume c .toUnmute start p ≤ c.maxVolume) ∧
    (0 ≤ rampVolume c .toMute start p ∧ rampVolume c .toMute start p ≤ c.maxVolume)

/-- 41_ramp.md R78, R79 and R80 (the spec's decisions D36 to D38): one tick of a ramp, its last tick with the silence
action of a mute ramp, and the tick that finds the controller in Idle. That a turn of a stopped timer changes nothing is
the model's deduction (log entry 6). -/
def Obligations.TickTakesOneRampStep : Prop :=
  (∀ s : State, (s.timerRun = false → timerTurn s = s) ∧ (s.fsm = .idle → tick s = s)) ∧
  ∀ s : State, legal s.cfg → Invariant s →
    (s.fsm ≠ .idle → s.progress.toNat + 1 < s.cfg.stepCount →
      ∃ (v : Byte) (q : BitVec 16), q.toNat = s.progress.toNat + 1 ∧
        (s.fsm = .rampingToUnmute → v.toNat = s.cfg.maxVolume * q.toNat / s.cfg.stepCount) ∧
        (s.fsm = .rampingToMute →
          v.toNat = s.startVol.toNat - s.startVol.toNat * q.toNat / s.cfg.stepCount) ∧
        timerTurn s = { s with vol := v, progress := q }) ∧
    (s.fsm = .rampingToUnmute → s.progress.toNat + 1 = s.cfg.stepCount →
      ∃ v : Byte, v.toNat = s.cfg.maxVolume ∧ timerTurn s = { s with
        vol := v, progress := 0#16, timerRun := false, fsm := .idle
        events := s.events ++ [.timerStop] }) ∧
    (s.fsm = .rampingToMute → s.progress.toNat + 1 = s.cfg.stepCount →
      ∃ q : Pulse, q.toNat = s.cfg.periodNs / 2 ∧ timerTurn s = { s with
        vol := 0#8, progress := 0#16, timerRun := false, fsm := .idle
        pwmL := if s.pwmOkL = true then some q else s.pwmL
        pwmR := if s.pwmOkR = true then some q else s.pwmR
        events := s.events ++ [.timerStop, .silenceAction,
          if s.pwmOkL = true then .pwmWritten .left q else .pwmWriteFailed .left,
          if s.pwmOkR = true then .pwmWritten .right q else .pwmWriteFailed .right] })

/-- 41_ramp.md R80 and 10_state.md R22: a step appends one silence action when it is the last tick of a mute ramp, and
none otherwise, whatever else it does. `CompletesMuteRamp` counts a step with no turn listed as the timer's while it runs,
which is the model's choice (log entry 3). -/
def Obligations.SilenceOncePerCompletedMuteRamp : Prop :=
  ∀ s t : State, step s = .next t → s.turns.head? ≠ some .reset →
    (CompletesMuteRamp s → silences t = silences s + 1) ∧
    (¬ CompletesMuteRamp s → silences t = silences s)

/-- 41_ramp.md R82 item 3 and 70_reset_and_hazards.md R132; that an unscheduled running timer is served first is the
model's choice (log entry 3): left alone, a running ramp takes exactly the ticks it still
owes and ends on its target; a mute ramp then has committed one silence action. -/
def Obligations.RunningRampEndsAfterTheOwedTicks : Prop :=
  ∀ s : State, legal s.cfg → Invariant s → s.turns = [] → s.timerRun = true →
    (∀ k, k < s.cfg.stepCount - s.progress.toNat →
      ∃ t, run k s = .next t ∧ t.fsm = s.fsm ∧ t.timerRun = true) ∧
    ∃ t, run (s.cfg.stepCount - s.progress.toNat) s = .next t ∧ t.fsm = .idle ∧ t.timerRun = false ∧
      t.progress = 0#16 ∧ t.vol.toNat = rampTarget s ∧ t.muted = s.muted ∧
      silences t = silences s + (if s.fsm = .rampingToMute then 1 else 0)

/-- 41_ramp.md R82 item 1 (90_conflicts.md C3): one MUTE and STEP_COUNT ticks, with any further MUTEs among them, end in
Idle at volume 0 with one silence action. -/
def Obligations.MuteRampEndsSilent : Prop :=
  ∀ (s : State) (l : List Turn), legal s.cfg → Invariant s → s.inited = true → s.fsm = .idle → s.muted = false →
    s.turns = .word 0x20000000#32 :: l → (∀ x ∈ l, x = .tick ∨ x = .word 0x20000000#32) →
    l.count .tick = s.cfg.stepCount →
    ∃ t, run (l.length + 1) s = .next t ∧ t.fsm = .idle ∧ t.vol = 0#8 ∧ t.muted = true ∧ t.timerRun = false ∧
      t.progress = 0#16 ∧ silences t = silences s + 1

/-- 41_ramp.md R82 item 2: one UNMUTE and STEP_COUNT ticks, with any further UNMUTEs among them, end in Idle at
MAX_VOLUME, unmuted, with no silence action. -/
def Obligations.UnmuteRampEndsAtFullVolume : Prop :=
  ∀ (s : State) (l : List Turn), legal s.cfg → Invariant s → s.inited = true → s.fsm = .idle → s.muted = true →
    s.turns = .word 0x21000000#32 :: l → (∀ x ∈ l, x = .tick ∨ x = .word 0x21000000#32) →
    l.count .tick = s.cfg.stepCount →
    ∃ t, run (l.length + 1) s = .next t ∧ t.fsm = .idle ∧ t.vol.toNat = s.cfg.maxVolume ∧ t.muted = false ∧
      t.timerRun = false ∧ t.progress = 0#16 ∧ silences t = silences s

/-- 41_ramp.md R83: a MUTE during an unmute ramp goes on from the volume reached, an UNMUTE during a mute ramp starts
near 0 whatever it was; neither restarts the timer nor owes a silence action for the ramp it cut short. -/
def Obligations.ReversalRestartsTheRamp : Prop :=
  ∀ (s : State) (ts : List Turn), legal s.cfg → Invariant s →
    (s.fsm = .rampingToUnmute → s.turns = .word 0x20000000#32 :: .tick :: ts →
      ∃ t, run 2 s = .next t ∧ t.vol.toNat = s.vol.toNat - s.vol.toNat / s.cfg.stepCount ∧ t.startVol = s.vol ∧
        t.muted = true ∧
        (1 < s.cfg.stepCount → t.fsm = .rampingToMute ∧ t.progress = 1#16 ∧ t.events = s.events)) ∧
    (s.fsm = .rampingToMute → s.turns = .word 0x21000000#32 :: .tick :: ts →
      ∃ t, run 2 s = .next t ∧ t.vol.toNat = s.cfg.maxVolume / s.cfg.stepCount ∧ t.muted = false ∧
        silences t = silences s ∧
        (1 < s.cfg.stepCount → t.fsm = .rampingToUnmute ∧ t.progress = 1#16 ∧ t.events = s.events))

/-- 41_ramp.md R84 and 70_reset_and_hazards.md R125: a SETVOL during a ramp takes effect at once and is overwritten by
the next tick, which writes what it would have written without it. -/
def Obligations.SetvolDuringARampIsOverwritten : Prop :=
  ∀ (imm : Imm16) (s : State), s.inited = true → s.timerRun = true → s.fsm ≠ .idle →
    ∃ t, exec (.setvol imm) s = .next t ∧ t.vol = setvolValue s.cfg imm ∧ t.startVol = s.startVol ∧
      t.progress = s.progress ∧ t.fsm = s.fsm ∧ timerTurn t = { timerTurn s with responses := t.responses }

/-! ### All commands -/

/-- 10_state.md R11 to R16: which commands write which item of the state; everything else is unchanged, and every command
appends one response and only appends to the trace. -/
def Obligations.CommandsWriteOnlyTheirRegisters : Prop :=
  ∀ (i : Instr) (s t : State), exec i s = .next t →
    (t.cfg = s.cfg ∧ t.pwmOkL = s.pwmOkL ∧ t.pwmOkR = s.pwmOkR ∧ t.turns = s.turns ∧ t.host = s.host) ∧
    (t.vol ≠ s.vol → ∃ imm, i = .setvol imm) ∧
    (t.startVol ≠ s.startVol ∨ t.progress ≠ s.progress ∨ t.fsm ≠ s.fsm ∨ t.muted ≠ s.muted ∨
      t.timerRun ≠ s.timerRun → i = .mute ∨ i = .unmute) ∧
    (t.inited ≠ s.inited → i = .init) ∧
    (t.pwmL ≠ s.pwmL → i = .init ∨ (∃ imm, i = .emitm imm) ∨ ∃ imm, i = .emitl imm) ∧
    (t.pwmR ≠ s.pwmR → i = .init ∨ (∃ imm, i = .emitm imm) ∨ ∃ imm, i = .emitr imm) ∧
    ∃ r es, t.responses = s.responses ++ [r] ∧ t.events = s.events ++ es

/-- 60_exceptions.md R105: every word on the port is answered once, with a code whose causes and data are those of the
table; ERR_ILLEGAL, ERR_NOT_READY and ERR_INIT change nothing. -/
def Obligations.EveryCommandAnswersOnce : Prop :=
  ∀ (w : Word) (s : State), ∃ t r, command w s = .next t ∧ t.responses = s.responses ++ [r] ∧
    (r.code = .errIllegal ↔ IllegalWord w) ∧
    (r.code = .errNotReady ↔ ∃ i, decode w = .ok i ∧ Gated i = true ∧ s.inited = false) ∧
    (r.code = .errInit ↔ decode w = .ok .init ∧ s.inited = false ∧ ¬ BothReady s) ∧
    (r.code = .errHwWrite ↔ s.inited = true ∧
      ((∃ imm, decode w = .ok (.emitm imm) ∧ ¬ BothReady s) ∨
        (∃ imm, decode w = .ok (.emitl imm) ∧ s.pwmOkL = false) ∨
        (∃ imm, decode w = .ok (.emitr imm) ∧ s.pwmOkR = false))) ∧
    (r.code = .errIllegal ∨ r.code = .errNotReady → r.data = 0#32) ∧
    (r.code = .errInit →
      r.data.toNat = (if s.pwmOkL = true then 0 else 1) + (if s.pwmOkR = true then 0 else 2)) ∧
    (r.code = .errHwWrite →
      (r.data = 0#32 ∧ s.pwmOkL = false ∧ t.events = s.events ++ [.pwmWriteFailed .left]) ∨
      (r.data = 1#32 ∧ s.pwmOkR = false ∧ t.pwmR = s.pwmR ∧
        t.events.getLast? = some (.pwmWriteFailed .right))) ∧
    (r.code = .errIllegal ∨ r.code = .errNotReady ∨ r.code = .errInit →
      t = { s with responses := s.responses ++ [r] }) ∧
    [Code.ok, .errIllegal, .errNotReady, .errInit, .errHwWrite].map (fun c => (codeNumber c).toNat) = [0, 1, 2, 3, 4]

/-- 70_reset_and_hazards.md R131: a finished machine takes nothing but new inputs, idle turns and a reset, and stays
finished; one whose timer runs owes its tick, which the model serves at once when no turn is listed (log entry 3). -/
def Obligations.FinishedMachineWaits : Prop :=
  ∀ s : State, legal s.cfg →
    (Finished s → ∃ t, step s = .next t ∧ Finished t ∧ (s.turns = [] → t = s) ∧
      (s.turns.head? ≠ some .reset →
        t = { s with turns := s.turns.tail, pwmOkL := t.pwmOkL, pwmOkR := t.pwmOkR })) ∧
    (s.timerRun = true → ¬ Finished s) ∧
    (s.turns = [] → s.timerRun = true → step s = .next (timerTurn s) ∧ (Invariant s → timerTurn s ≠ s))

/-- 70_reset_and_hazards.md R132: in a fair infinite run a ramp that no request restarts any more (MUTED, which every
start and restart flips, stays as it is) ends for good, and then so does a RAMPWAIT whose host keeps taking turns. How an
infinite run is written is the model's choice (log entry 23). -/
def Obligations.FairRampsAndWaitsEnd : Prop :=
  ∀ (sched : Nat → Turn) (states : Nat → State) (n : Nat), legal (states 0).cfg → Invariant (states 0) →
    InfiniteRun sched states → Fair sched states → (∀ m, n ≤ m → (states m).muted = (states n).muted) →
    (∃ m, n ≤ m ∧ ∀ k, m ≤ k → (states k).fsm = .idle ∧ (states k).timerRun = false) ∧
    (∀ b, (states n).host.phase = .polling b → (∀ k, ∃ m, k ≤ m ∧ sched m = .host) →
      ∃ m, n ≤ m ∧ (states m).host.phase = .idle)

/-- 70_reset_and_hazards.md R132: a host that alternates MUTE and UNMUTE between ticks forever keeps a ramp of two or more
steps from ever ending, and that run is fair. How an infinite run is written is the model's choice (log entry 23). -/
def Obligations.AlternatingRequestsNeverEndARamp : Prop :=
  ∀ s : State, legal s.cfg → Invariant s → s.fsm = .rampingToUnmute → 1 < s.cfg.stepCount →
    let sched : Nat → Turn := fun n =>
      if n % 4 = 0 then .word 0x20000000#32 else if n % 4 = 2 then .word 0x21000000#32 else .tick
    ∃ states : Nat → State, states 0 = s ∧ InfiniteRun sched states ∧ Fair sched states ∧
      ∀ n, (states n).timerRun = true ∧ (states n).fsm ≠ .idle

/-- 20_memory.md R35 item 4: an emission after a tick, of any of the three commands, converts with the volume that tick
wrote; a refused write keeps the register as the tick left it. -/
def Obligations.TickIsVisibleToTheNextEmission : Prop :=
  ∀ (s : State) (w : Word) (imm : Imm16) (ts : List Turn), legal s.cfg → Invariant s → s.timerRun = true →
    s.turns = .tick :: .word w :: ts →
    ∃ p : Pulse, (p.toNat : Int) = convert s.cfg (sext16 imm) (timerTurn s).vol.toNat ∧
      (decode w = .ok (.emitm imm) → ∃ t, run 2 s = .next t ∧ t.vol = (timerTurn s).vol ∧
        t.pwmL = (if s.pwmOkL = true then some p else (timerTurn s).pwmL) ∧
        t.pwmR = (if s.pwmOkL = true ∧ s.pwmOkR = true then some p else (timerTurn s).pwmR) ∧
        t.responses = s.responses ++ [if s.pwmOkL = false then ⟨.errHwWrite, 0#32⟩
          else if s.pwmOkR = false then ⟨.errHwWrite, 1#32⟩ else ⟨.ok, p.setWidth 32⟩]) ∧
      (decode w = .ok (.emitl imm) → ∃ t, run 2 s = .next t ∧ t.vol = (timerTurn s).vol ∧
        t.pwmL = (if s.pwmOkL = true then some p else (timerTurn s).pwmL) ∧ t.pwmR = (timerTurn s).pwmR ∧
        t.responses = s.responses ++ [if s.pwmOkL = false then ⟨.errHwWrite, 0#32⟩ else ⟨.ok, p.setWidth 32⟩]) ∧
      (decode w = .ok (.emitr imm) → ∃ t, run 2 s = .next t ∧ t.vol = (timerTurn s).vol ∧
        t.pwmR = (if s.pwmOkR = true then some p else (timerTurn s).pwmR) ∧ t.pwmL = (timerTurn s).pwmL ∧
        t.responses = s.responses ++ [if s.pwmOkR = false then ⟨.errHwWrite, 1#32⟩ else ⟨.ok, p.setWidth 32⟩])

/-! ### The host's sequences

That the host is a program in the state which issues one command a turn is the model's choice (log entry 10). -/

/-- 43_host_sequences.md R95 and 70_reset_and_hazards.md R126: with the device Ready and not muted and every write accepted,
PLAY.M issues one RDST and one EMITM a sample and returns Ok; an empty buffer issues RDST only. With no turn listed the host
moves on its own because the timer is stopped (log entry 3). With turns listed, ticks and commands of any kind may fall
between the samples, a MUTE among them: the buffer goes on to its end, and each sample is emitted at the volume reached. That words
may fall between the host's own commands is the model's deduction (log entry 21). -/
def Obligations.PlayMonoEmitsTheWholeBuffer : Prop :=
  ∀ (s : State) (buf : List Imm16) (ts : List HostTask), legal s.cfg → s.inited = true → s.muted = false →
    BothReady s → s.host.phase = .idle → s.host.tasks = .playM buf :: ts →
    (s.timerRun = false → s.turns = [] →
      ∃ t, run (buf.length + 1) s = .next t ∧ t.host.phase = .idle ∧ t.host.tasks = ts ∧
        t.host.results = s.host.results ++ [.ok] ∧
        t.responses = s.responses ++ ⟨.ok, statusWord s⟩ ::
          buf.map (fun x => ⟨.ok, pulseData (convertPulse s.cfg x s.vol)⟩) ∧
        ∀ x, buf.getLast? = some x →
          t.pwmL = some (convertPulse s.cfg x s.vol) ∧ t.pwmR = some (convertPulse s.cfg x s.vol)) ∧
    (∀ l : List Turn, s.turns = .host :: l → (∀ x ∈ l, x = .host ∨ x = .tick ∨ ∃ w, x = .word w) →
      l.count .host = buf.length →
      (∃ t, run (l.length + 1) s = .next t ∧ t.host.phase = .idle ∧ t.host.tasks = ts ∧
        t.host.results = s.host.results ++ [.ok]) ∧
      ∀ l₁ l₂, l = l₁ ++ .host :: l₂ → ∃ u v x, run (l₁.length + 1) s = .next u ∧ step u = .next v ∧
        buf[l₁.count .host]? = some x ∧ v.pwmL = some (convertPulse s.cfg x u.vol) ∧
        v.pwmR = some (convertPulse s.cfg x u.vol) ∧ (u.vol = 0#8 → v.pwmL = some (silencePulse s.cfg)))

/-- 43_host_sequences.md R96 and 70_reset_and_hazards.md R126, R129: PLAY.S of a buffer of whole frames issues one RDST and, a
frame, EMITL of the even sample and EMITR of the odd one; with no turn listed the host moves on its own because the timer is
stopped (log entry 3). With turns listed, ticks and commands of any kind may fall between any two samples, and each sample
is emitted at the volume reached; that words may fall there is the model's deduction (log entry 21). PLAY.S is not defined for an odd count and is refused (log entry 13). -/
def Obligations.PlayStereoEmitsTheWholeBuffer : Prop :=
  (∀ (s : State) (frames : List (Imm16 × Imm16)) (ts : List HostTask), legal s.cfg → s.inited = true →
    s.muted = false → BothReady s → s.host.phase = .idle →
    s.host.tasks = .playS (frames.flatMap fun f => [f.1, f.2]) :: ts →
    (s.timerRun = false → s.turns = [] →
      ∃ t, run (2 * frames.length + 1) s = .next t ∧ t.host.phase = .idle ∧ t.host.tasks = ts ∧
        t.host.results = s.host.results ++ [.ok] ∧
        t.responses = s.responses ++ ⟨.ok, statusWord s⟩ :: frames.flatMap (fun f =>
          [⟨.ok, pulseData (convertPulse s.cfg f.1 s.vol)⟩, ⟨.ok, pulseData (convertPulse s.cfg f.2 s.vol)⟩]) ∧
        ∀ f, frames.getLast? = some f →
          t.pwmL = some (convertPulse s.cfg f.1 s.vol) ∧ t.pwmR = some (convertPulse s.cfg f.2 s.vol)) ∧
    (∀ l : List Turn, s.turns = .host :: l → (∀ x ∈ l, x = .host ∨ x = .tick ∨ ∃ w, x = .word w) →
      l.count .host = 2 * frames.length →
      (∃ t, run (l.length + 1) s = .next t ∧ t.host.phase = .idle ∧ t.host.tasks = ts ∧
        t.host.results = s.host.results ++ [.ok]) ∧
      ∀ l₁ l₂, l = l₁ ++ .host :: l₂ → ∃ u v f, run (l₁.length + 1) s = .next u ∧ step u = .next v ∧
        frames[l₁.count .host / 2]? = some f ∧
        (l₁.count .host % 2 = 0 → v.pwmL = some (convertPulse s.cfg f.1 u.vol) ∧ v.pwmR = u.pwmR) ∧
        (l₁.count .host % 2 = 1 → v.pwmR = some (convertPulse s.cfg f.2 u.vol) ∧ v.pwmL = u.pwmL))) ∧
  (∀ (s : State) (buf : List Imm16) (ts : List HostTask), s.host.phase = .idle →
    s.host.tasks = .playS buf :: ts → buf.length % 2 = 1 → hostTurn s = .refused .oddStereoBuffer)

/-- 43_host_sequences.md R95 and 70_reset_and_hazards.md R126: the checks of a play are made once, before the first
sample; while muted the buffer is discarded whole, before INIT it is turned away, and no register changes. -/
def Obligations.PlayChecksOncePerBuffer : Prop :=
  ∀ (s : State) (task : HostTask) (buf : List Imm16) (ts : List HostTask),
    task = .playM buf ∨ (task = .playS buf ∧ buf.length % 2 = 0) →
    s.host.phase = .idle → s.host.tasks = task :: ts →
    (s.inited = true → s.muted = true → hostTurn s = .next { s with
      responses := s.responses ++ [⟨.ok, statusWord s⟩]
      host := { s.host with tasks := ts, results := s.host.results ++ [.ok] } }) ∧
    (s.inited = false → hostTurn s = .next { s with
      responses := s.responses ++ [⟨.ok, statusWord s⟩]
      host := { s.host with tasks := ts, results := s.host.results ++ [.notReady] } })

/-- 43_host_sequences.md R95, R96 and 70_reset_and_hazards.md R130: a failed write ends the buffer at once, names the
failing channel, and undoes nothing. -/
def Obligations.WriteFailureAbortsTheBuffer : Prop :=
  ∀ s : State, s.inited = true →
    (∀ (x : Imm16) (rest : List Imm16), s.host.phase = .playMono (x :: rest) → ¬ BothReady s →
      ∃ t, hostTurn s = .next t ∧ t.host = { s.host with phase := .idle, results := s.host.results ++
          [.hardwareWriteError (if s.pwmOkL = true then 1#32 else 0#32)] } ∧
        t.pwmR = s.pwmR ∧
        t.pwmL = if s.pwmOkL = true then some (convertPulse s.cfg x s.vol) else s.pwmL) ∧
    (∀ (l r : Imm16) (rest : List Imm16), s.host.phase = .playStereo (l :: r :: rest) → s.pwmOkL = false →
      ∃ t, hostTurn s = .next t ∧ t.host = { s.host with phase := .idle, results := s.host.results ++
          [.hardwareWriteError 0#32] } ∧ t.pwmL = s.pwmL ∧ t.pwmR = s.pwmR) ∧
    (∀ (r : Imm16) (rest : List Imm16), s.host.phase = .playStereoRight r rest → s.pwmOkR = false →
      ∃ t, hostTurn s = .next t ∧ t.host = { s.host with phase := .idle, results := s.host.results ++
          [.hardwareWriteError 1#32] } ∧ t.pwmL = s.pwmL ∧ t.pwmR = s.pwmR)

/-- 43_host_sequences.md R97: EMITS is EMITL and then EMITR, two steps, each with the volume of its own moment; after a
failed left write the right sample is not issued, and after a failed right one the left stays written; before INIT both
commands are turned away. With no turn listed the host moves on its own (log entry 3). With turns listed, ticks, commands of
any kind (log entry 21) and new inputs may fall between the two. The results recorded are the model's choice (log entry
10). -/
def Obligations.EmitsIsLeftThenRight : Prop :=
  ∀ (s : State) (l r : Imm16) (ts : List HostTask), legal s.cfg → s.host.phase = .idle →
    s.host.tasks = .emits l r :: ts →
    (s.inited = true → s.timerRun = false → s.turns = [] →
      (BothReady s → ∃ t, run 2 s = .next t ∧ t.pwmL = some (convertPulse s.cfg l s.vol) ∧
        t.pwmR = some (convertPulse s.cfg r s.vol) ∧ t.host.phase = .idle ∧ t.host.tasks = ts ∧
        t.host.results = s.host.results ++ [.done] ∧
        t.events = s.events ++ [.pwmWritten .left (convertPulse s.cfg l s.vol),
          .pwmWritten .right (convertPulse s.cfg r s.vol)]) ∧
      (s.pwmOkL = true → s.pwmOkR = false → ∃ t, run 2 s = .next t ∧
        t.pwmL = some (convertPulse s.cfg l s.vol) ∧ t.pwmR = s.pwmR ∧ t.host.phase = .idle ∧ t.host.tasks = ts ∧
        t.host.results = s.host.results ++ [.hardwareWriteError 1#32] ∧
        t.events = s.events ++ [.pwmWritten .left (convertPulse s.cfg l s.vol), .pwmWriteFailed .right]) ∧
      (s.pwmOkL = false → ∃ t, run 1 s = .next t ∧ t.host.phase = .idle ∧ t.host.tasks = ts ∧
        t.host.results = s.host.results ++ [.hardwareWriteError 0#32] ∧
        t.pwmL = s.pwmL ∧ t.pwmR = s.pwmR ∧ t.events = s.events ++ [.pwmWriteFailed .left])) ∧
    (∀ l₁ l₂ : List Turn, s.inited = true → s.turns = .host :: (l₁ ++ .host :: l₂) →
      (∀ x ∈ l₁, x = .tick ∨ (∃ w, x = .word w) ∨ ∃ okL okR, x = .env okL okR) →
      (s.pwmOkL = true → ∃ u v t, step s = .next u ∧ u.pwmL = some (convertPulse s.cfg l s.vol) ∧ u.pwmR = s.pwmR ∧
        run (l₁.length + 1) s = .next v ∧ v.host.phase = .emitRight r ∧ step v = .next t ∧ t.turns = l₂ ∧
        t.pwmL = v.pwmL ∧ t.host.phase = .idle ∧ t.host.tasks = ts ∧
        (v.pwmOkR = true → t.pwmR = some (convertPulse s.cfg r v.vol) ∧
          t.host.results = s.host.results ++ [.done]) ∧
        (v.pwmOkR = false → t.pwmR = v.pwmR ∧ t.host.results = s.host.results ++ [.hardwareWriteError 1#32])) ∧
      (s.pwmOkL = false → ∃ u, step s = .next u ∧ u.turns = l₁ ++ .host :: l₂ ∧ u.host.phase = .idle ∧
        u.host.tasks = ts ∧ u.host.results = s.host.results ++ [.hardwareWriteError 0#32] ∧
        u.pwmL = s.pwmL ∧ u.pwmR = s.pwmR)) ∧
    (∀ l₂ : List Turn, s.inited = false → s.turns = .host :: .host :: l₂ ∨ (s.turns = [] ∧ s.timerRun = false) →
      ∃ t, run 2 s = .next t ∧ t.responses = s.responses ++ [⟨.errNotReady, 0#32⟩, ⟨.errNotReady, 0#32⟩] ∧
        t.host.phase = .idle ∧ t.host.tasks = ts ∧ t.host.results = s.host.results ++ [.done] ∧
        t.pwmL = s.pwmL ∧ t.pwmR = s.pwmR ∧ t.vol = s.vol ∧ t.inited = false ∧ t.events = s.events)

/-- 43_host_sequences.md R98 and 70_reset_and_hazards.md R132: RAMPWAIT begins with an RDST; it and every later poll end the
wait exactly when the controller is in Idle; and, with the timer served first (log entry 3), the wait ends once the ramp has
taken the ticks it owes, whether it has begun to poll or not. The recorded result is the model's choice (log entry 10), and
so is that the last poll of SHUTDOWN's wait disables the amplifier in its own step (log entry 24). -/
def Obligations.RampwaitEndsWithTheRamp : Prop :=
  (∀ (s : State) (ts : List HostTask), s.host.phase = .idle → s.host.tasks = .rampWait :: ts →
    ∃ t, hostTurn s = .next t ∧ t.responses = s.responses ++ [⟨.ok, statusWord s⟩] ∧ t.host.tasks = ts ∧
      (s.fsm = .idle → t.host.phase = .idle ∧ t.host.results = s.host.results ++ [.done]) ∧
      (s.fsm ≠ .idle → t.host.phase = .polling false ∧ t.host.results = s.host.results)) ∧
  (∀ (s : State) (b : Bool), s.host.phase = .polling b →
    ∃ t, hostTurn s = .next t ∧ t.responses = s.responses ++ [⟨.ok, statusWord s⟩] ∧
      (t.host.phase = .idle ↔ s.fsm = .idle) ∧ (s.fsm ≠ .idle → t.host = s.host) ∧
      (s.fsm = .idle → t.host.results = s.host.results ++ [.done])) ∧
  (∀ (s : State) (ts : List HostTask), legal s.cfg → Invariant s → s.turns = [] → s.timerRun = true →
    s.host.phase = .idle → s.host.tasks = .rampWait :: ts →
    ∃ t, run (s.cfg.stepCount - s.progress.toNat + 1) s = .next t ∧ t.fsm = .idle ∧ t.host.phase = .idle ∧
      t.host.tasks = ts ∧ t.host.results = s.host.results ++ [.done] ∧ t.host.ampOn = s.host.ampOn) ∧
  (∀ (s : State) (b : Bool), legal s.cfg → Invariant s → s.turns = [] → s.timerRun = true → s.host.phase = .polling b →
    ∃ t, run (s.cfg.stepCount - s.progress.toNat + 1) s = .next t ∧ t.fsm = .idle ∧ t.host.phase = .idle ∧
      t.host.results = s.host.results ++ [.done] ∧ (b = true → t.host.ampOn = false))

/-- 70_reset_and_hazards.md R127 and 43_host_sequences.md R99: the amplifier goes on only in the step that begins BRINGUP and
whose command is INIT, answered `(OK, 0)`, at silence when that INIT was the first to succeed; SHUTDOWN's wait begins only
with its MUTE, which leaves an initialised device muted; and the amplifier goes off only in a poll of that wait which finds
the controller in Idle. The flag is the model's record of what the host last told the amplifier (log entry 14), and that it
changes in the step of the command before the switch is the model's choice (log entry 24). -/
def Obligations.AmplifierFollowsInitAndMute : Prop :=
  ∀ s t : State, step s = .next t →
    let issuing : HostState := { s.host with tasks := t.host.tasks }
    (s.host.ampOn = false → t.host.ampOn = true →
      s.host.phase = .idle ∧ s.host.tasks = .bringup :: t.host.tasks ∧ t.host.phase = .unmuting ∧
      exec .init { s with turns := t.turns, host := issuing } = .next { t with host := issuing } ∧
      t.responses = s.responses ++ [⟨.ok, 0#32⟩] ∧ t.inited = true ∧
      (s.inited = false → t.pwmL = some (silencePulse s.cfg) ∧ t.pwmR = some (silencePulse s.cfg))) ∧
    (s.host.phase ≠ .polling true → t.host.phase = .polling true →
      s.host.phase = .idle ∧ s.host.tasks = .shutdown :: t.host.tasks ∧ t.host.ampOn = s.host.ampOn ∧
      exec .mute { s with turns := t.turns, host := issuing } = .next { t with host := issuing } ∧
      (s.inited = true → t.muted = true)) ∧
    (s.host.ampOn = true → t.host.ampOn = false →
      s.host.phase = .polling true ∧ t.host.phase = .idle ∧ s.fsm = .idle ∧ t.fsm = .idle ∧
      t.responses = s.responses ++ [⟨.ok, statusWord s⟩])

/-- 43_host_sequences.md R99: BRINGUP of a device not yet initialised, with both channels ready or not, of one
initialised already, and in a running ramp; SHUTDOWN of an unmuted idle device, of one that MUTE does nothing to (VOL, the
registers and the trace stay as they were), and in a running ramp of either direction. That with no turn listed the host
moves on its own and a running timer goes before its poll is the model's choice (log entry 3), the recorded results are
(log entry 10), and so is that the amplifier is switched in the step of the command before it (log entry 24). -/
def Obligations.BringupAndShutdownRunTheirCommands : Prop :=
  ∀ (s : State) (ts : List HostTask), legal s.cfg → Invariant s → s.host.phase = .idle →
    (s.turns = [] → s.timerRun = false →
      (s.host.tasks = .bringup :: ts → s.inited = false → BothReady s →
        ∃ t, run 2 s = .next t ∧ t.inited = true ∧ t.host.ampOn = true ∧ t.host.phase = .idle ∧ t.host.tasks = ts ∧
          t.host.results = s.host.results ++ [.done] ∧ t.muted = false ∧ t.fsm = .rampingToUnmute ∧
          t.timerRun = true ∧ t.pwmL = some (silencePulse s.cfg) ∧ t.pwmR = some (silencePulse s.cfg)) ∧
      (s.host.tasks = .bringup :: ts → s.inited = false → ¬ BothReady s →
        ∃ (t : State) (d : Word), run 1 s = .next t ∧
          d.toNat = (if s.pwmOkL = true then 0 else 1) + (if s.pwmOkR = true then 0 else 2) ∧
          t.inited = false ∧ t.host.ampOn = s.host.ampOn ∧ t.host.phase = .idle ∧ t.host.tasks = ts ∧
          t.host.results = s.host.results ++ [.initError d] ∧
          t.responses = s.responses ++ [⟨.errInit, d⟩] ∧ t.pwmL = s.pwmL ∧ t.pwmR = s.pwmR) ∧
      (s.host.tasks = .bringup :: ts → s.inited = true →
        ∃ t, run 2 s = .next t ∧ t.inited = true ∧ t.host.ampOn = true ∧ t.host.phase = .idle ∧ t.host.tasks = ts ∧
          t.host.results = s.host.results ++ [.done] ∧
          t.pwmL = s.pwmL ∧ t.pwmR = s.pwmR ∧ t.vol = s.vol ∧ t.muted = false ∧
          (s.muted = true → t.fsm = .rampingToUnmute ∧ t.timerRun = true ∧ t.events = s.events ++ [.timerStart]) ∧
          (s.muted = false → t.fsm = .idle ∧ t.timerRun = false ∧ t.events = s.events)) ∧
      (s.host.tasks = .shutdown :: ts → s.inited = true → s.muted = false →
        ∃ t, run (s.cfg.stepCount + 2) s = .next t ∧ t.host.ampOn = false ∧ t.host.phase = .idle ∧ t.host.tasks = ts ∧
          t.host.results = s.host.results ++ [.done] ∧ t.fsm = .idle ∧ t.vol = 0#8 ∧ t.muted = true ∧
          silences t = silences s + 1) ∧
      (s.host.tasks = .shutdown :: ts → s.muted = true →
        ∃ t, run 2 s = .next t ∧ t.host.ampOn = false ∧ t.host.phase = .idle ∧ t.host.tasks = ts ∧
          t.host.results = s.host.results ++ [.done] ∧ t.fsm = .idle ∧ t.vol = s.vol ∧ t.muted = true ∧
          t.pwmL = s.pwmL ∧ t.pwmR = s.pwmR ∧ t.events = s.events)) ∧
    (s.timerRun = true →
      (∀ l : List Turn, s.turns = .host :: .host :: l → s.host.tasks = .bringup :: ts →
        ∃ t, run 2 s = .next t ∧ t.host.ampOn = true ∧ t.host.phase = .idle ∧ t.host.tasks = ts ∧
          t.host.results = s.host.results ++ [.done] ∧ t.inited = true ∧ t.pwmL = s.pwmL ∧ t.pwmR = s.pwmR ∧
          t.vol = s.vol ∧ t.events = s.events ∧ t.muted = false ∧ t.fsm = .rampingToUnmute ∧ t.timerRun = true ∧
          (s.fsm = .rampingToMute → t.startVol = s.vol ∧ t.progress = 0#16) ∧
          (s.fsm = .rampingToUnmute → t.startVol = s.startVol ∧ t.progress = s.progress)) ∧
      (s.turns = [.host] → s.host.tasks = .shutdown :: ts →
        ∃ t, run ((if s.fsm = .rampingToMute then s.cfg.stepCount - s.progress.toNat else s.cfg.stepCount) + 2) s =
            .next t ∧ t.host.ampOn = false ∧ t.host.phase = .idle ∧ t.host.tasks = ts ∧
          t.host.results = s.host.results ++ [.done] ∧ t.fsm = .idle ∧ t.timerRun = false ∧ t.vol = 0#8 ∧
          t.muted = true ∧ silences t = silences s + 1))
end

