-- ==== Sys2Proof/Laws/Decode.lean ====
section
/-! SUPPORT. The fields of a packed word, and the opcode a decoded word carries. -/

namespace Sys2Proof

@[simp] theorem opField_packWord (op mid : Byte) (low : Imm16) : opField (packWord op mid low) = op := by
  apply BitVec.eq_of_getLsbD_eq
  intro i hi
  simp only [opField, packWord, BitVec.getLsbD_extractLsb', BitVec.getLsbD_append]
  have h1 : ¬ (24 + i < 16) := by omega
  have h2 : ¬ (24 + i - 16 < 8) := by omega
  have h3 : 24 + i - 16 - 8 = i := by omega
  simp [hi, h1, h2, h3]

@[simp] theorem midField_packWord (op mid : Byte) (low : Imm16) : midField (packWord op mid low) = mid := by
  apply BitVec.eq_of_getLsbD_eq
  intro i hi
  simp only [midField, packWord, BitVec.getLsbD_extractLsb', BitVec.getLsbD_append]
  have h1 : ¬ (16 + i < 16) := by omega
  have h3 : 16 + i - 16 = i := by omega
  simp [hi, h1, h3]

@[simp] theorem lowField_packWord (op mid : Byte) (low : Imm16) : lowField (packWord op mid low) = low := by
  apply BitVec.eq_of_getLsbD_eq
  intro i hi
  simp only [lowField, packWord, BitVec.getLsbD_extractLsb', BitVec.getLsbD_append]
  simp [hi]

/-- A word is its three fields. -/
theorem packWord_fields (w : Word) : packWord (opField w) (midField w) (lowField w) = w := by
  apply BitVec.eq_of_getLsbD_eq
  intro i hi
  simp only [opField, midField, lowField, packWord, BitVec.getLsbD_extractLsb', BitVec.getLsbD_append]
  by_cases h1 : i < 16
  · simp [h1]
  · by_cases h2 : i - 16 < 8
    · have : 16 + (i - 16) = i := by omega
      simp [h1, h2, this]
    · have h3 : i - 16 - 8 < 8 := by omega
      have : 24 + (i - 16 - 8) = i := by omega
      simp [h1, h2, h3, this]

/-- The three fields as numbers. -/
theorem field_toNat (w : Word) :
    (opField w).toNat = w.toNat / 2 ^ 24 ∧ (midField w).toNat = w.toNat / 2 ^ 16 % 2 ^ 8 ∧
      (lowField w).toNat = w.toNat % 2 ^ 16 := by
  have hw := w.isLt
  simp only [opField, midField, lowField, BitVec.extractLsb'_toNat, Nat.shiftRight_eq_div_pow]
  refine ⟨Nat.mod_eq_of_lt (by omega), trivial, by simp⟩

/-- A packed word as a number. -/
theorem packWord_toNat (op mid : Byte) (low : Imm16) :
    (packWord op mid low).toNat = op.toNat * 2 ^ 24 + mid.toNat * 2 ^ 16 + low.toNat := by
  have h := field_toNat (packWord op mid low)
  simp only [opField_packWord, midField_packWord, lowField_packWord] at h
  omega

/-- The four bytes of a word, joined again. -/
theorem bytes_append (w : Word) :
    (w.extractLsb' 24 8 ++ w.extractLsb' 16 8 ++ w.extractLsb' 8 8 ++ w.extractLsb' 0 8 : BitVec 32) = w := by
  apply BitVec.eq_of_getLsbD_eq
  intro i hi
  simp only [BitVec.getLsbD_extractLsb', BitVec.getLsbD_append]
  by_cases h1 : i < 8
  · simp [h1]
  · by_cases h2 : i - 8 < 8
    · have : 8 + (i - 8) = i := by omega
      simp [h1, h2, this]
    · by_cases h3 : i - 8 - 8 < 8
      · have : 16 + (i - 8 - 8) = i := by omega
        simp [h1, h2, h3, this]
      · have h4 : i - 8 - 8 - 8 < 8 := by omega
        have : 24 + (i - 8 - 8 - 8) = i := by omega
        simp [h1, h2, h3, h4, this]

/-- A byte is one of the ten opcodes or none of them. -/
theorem opcode_cases (a : Byte) :
    a = 0x01#8 ∨ a = 0x02#8 ∨ a = 0x03#8 ∨ a = 0x10#8 ∨ a = 0x11#8 ∨ a = 0x12#8 ∨ a = 0x13#8 ∨ a = 0x20#8 ∨
      a = 0x21#8 ∨ a = 0x22#8 ∨
      (a ≠ 0x01#8 ∧ a ≠ 0x02#8 ∧ a ≠ 0x03#8 ∧ a ≠ 0x10#8 ∧ a ≠ 0x11#8 ∧ a ≠ 0x12#8 ∧ a ≠ 0x13#8 ∧ a ≠ 0x20#8 ∧
        a ≠ 0x21#8 ∧ a ≠ 0x22#8) := by
  tauto

/-- What the decoder does with each opcode (30_encoding.md R44, R45). -/
theorem decode_fields {w : Word} :
    (opField w = 0x01#8 ∧ decode w = formatZ w .init) ∨ (opField w = 0x02#8 ∧ decode w = formatZ w .rdst) ∨
    (opField w = 0x03#8 ∧ decode w = formatX w .rdcfg) ∨ (opField w = 0x10#8 ∧ decode w = formatVS w .conv) ∨
    (opField w = 0x11#8 ∧ decode w = formatS w .emitm) ∨ (opField w = 0x12#8 ∧ decode w = formatS w .emitl) ∨
    (opField w = 0x13#8 ∧ decode w = formatS w .emitr) ∨ (opField w = 0x20#8 ∧ decode w = formatZ w .mute) ∨
    (opField w = 0x21#8 ∧ decode w = formatZ w .unmute) ∨ (opField w = 0x22#8 ∧ decode w = formatS w .setvol) ∨
    ((opField w ≠ 0x01#8 ∧ opField w ≠ 0x02#8 ∧ opField w ≠ 0x03#8 ∧ opField w ≠ 0x10#8 ∧ opField w ≠ 0x11#8 ∧
      opField w ≠ 0x12#8 ∧ opField w ≠ 0x13#8 ∧ opField w ≠ 0x20#8 ∧ opField w ≠ 0x21#8 ∧ opField w ≠ 0x22#8) ∧
      decode w = .error .unassignedOpcode) := by
  unfold decode
  generalize opField w = a
  rcases opcode_cases a with h | h | h | h | h | h | h | h | h | h | h
  all_goals first
    | (subst h; simp)
    | (obtain ⟨h1, h2, h3, h4, h5, h6, h7, h8, h9, h10⟩ := h
       simp only [h1, h2, h3, h4, h5, h6, h7, h8, h9, h10, if_false]
       simp [h1, h2, h3, h4, h5, h6, h7, h8, h9, h10])

/-- Format Z accepts or refuses by its must-be-0 bits. -/
theorem formatZ_cases (w : Word) (i : Instr) :
    (midField w = 0#8 ∧ lowField w = 0#16 ∧ formatZ w i = .ok i) ∨
      (¬ (midField w = 0#8 ∧ lowField w = 0#16) ∧ formatZ w i = .error .formatZ) := by
  unfold formatZ; split <;> simp_all

/-- Format S accepts or refuses by its must-be-0 bits. -/
theorem formatS_cases (w : Word) (mk : Imm16 → Instr) :
    (midField w = 0#8 ∧ formatS w mk = .ok (mk (lowField w))) ∨
      (midField w ≠ 0#8 ∧ formatS w mk = .error .formatS) := by
  unfold formatS; split <;> simp_all

/-- Format X accepts, or refuses by its must-be-0 bits, or by the index. -/
theorem formatX_cases (w : Word) (mk : Byte → Instr) :
    (lowField w = 0#16 ∧ (midField w).toNat ≤ 7 ∧ formatX w mk = .ok (mk (midField w))) ∨
      (lowField w ≠ 0#16 ∧ formatX w mk = .error .formatX) ∨
      (lowField w = 0#16 ∧ 7 < (midField w).toNat ∧ formatX w mk = .error .cfgIndex) := by
  unfold formatX; split
  · simp_all
  · split <;> simp_all

/-- A word that a transport splits into bytes comes back whole (20_memory.md R31). -/
theorem wordOfBytes_bytesOfWord (w : Word) : wordOfBytes (bytesOfWord w) = some w := by
  simp only [wordOfBytes, bytesOfWord, bytes_append]

/-- Masking a word masks its fields. -/
theorem packWord_and (a b a' b' : Byte) (c c' : Imm16) :
    packWord a b c &&& packWord a' b' c' = packWord (a &&& a') (b &&& b') (c &&& c') := by
  apply BitVec.eq_of_getLsbD_eq
  intro i hi
  simp only [packWord, BitVec.getLsbD_and, BitVec.getLsbD_append]
  split
  · rfl
  · split <;> rfl

/-- Equal words have equal fields. -/
theorem packWord_inj {a b a' b' : Byte} {c c' : Imm16} (h : packWord a b c = packWord a' b' c') :
    a = a' ∧ b = b' ∧ c = c' := by
  have h1 := congrArg opField h
  have h2 := congrArg midField h
  have h3 := congrArg lowField h
  simp only [opField_packWord, midField_packWord, lowField_packWord] at h1 h2 h3
  exact ⟨h1, h2, h3⟩

end Sys2Proof
end

