-- ==== Sys2Proof/Laws/State.lean ====
section
/-! SUPPORT. What each named update of the state does to each field: one lemma per field per update, so that no later proof unfolds a record update. -/

namespace Sys2Proof.Machine

/-! ### respond -/

@[simp] theorem respond_cfg (code : Code) (data : Word) (s : State) :
    (respond code data s).cfg = s.cfg := rfl
@[simp] theorem respond_vol (code : Code) (data : Word) (s : State) :
    (respond code data s).vol = s.vol := rfl
@[simp] theorem respond_startVol (code : Code) (data : Word) (s : State) :
    (respond code data s).startVol = s.startVol := rfl
@[simp] theorem respond_progress (code : Code) (data : Word) (s : State) :
    (respond code data s).progress = s.progress := rfl
@[simp] theorem respond_pwmL (code : Code) (data : Word) (s : State) :
    (respond code data s).pwmL = s.pwmL := rfl
@[simp] theorem respond_pwmR (code : Code) (data : Word) (s : State) :
    (respond code data s).pwmR = s.pwmR := rfl
@[simp] theorem respond_fsm (code : Code) (data : Word) (s : State) :
    (respond code data s).fsm = s.fsm := rfl
@[simp] theorem respond_muted (code : Code) (data : Word) (s : State) :
    (respond code data s).muted = s.muted := rfl
@[simp] theorem respond_inited (code : Code) (data : Word) (s : State) :
    (respond code data s).inited = s.inited := rfl
@[simp] theorem respond_timerRun (code : Code) (data : Word) (s : State) :
    (respond code data s).timerRun = s.timerRun := rfl
@[simp] theorem respond_pwmOkL (code : Code) (data : Word) (s : State) :
    (respond code data s).pwmOkL = s.pwmOkL := rfl
@[simp] theorem respond_pwmOkR (code : Code) (data : Word) (s : State) :
    (respond code data s).pwmOkR = s.pwmOkR := rfl
@[simp] theorem respond_responses (code : Code) (data : Word) (s : State) :
    (respond code data s).responses = s.responses ++ [⟨code, data⟩] := rfl
@[simp] theorem respond_events (code : Code) (data : Word) (s : State) :
    (respond code data s).events = s.events := rfl
@[simp] theorem respond_turns (code : Code) (data : Word) (s : State) :
    (respond code data s).turns = s.turns := rfl
@[simp] theorem respond_host (code : Code) (data : Word) (s : State) :
    (respond code data s).host = s.host := rfl

/-! ### emit -/

@[simp] theorem emit_cfg (e : Event) (s : State) :
    (emit e s).cfg = s.cfg := rfl
@[simp] theorem emit_vol (e : Event) (s : State) :
    (emit e s).vol = s.vol := rfl
@[simp] theorem emit_startVol (e : Event) (s : State) :
    (emit e s).startVol = s.startVol := rfl
@[simp] theorem emit_progress (e : Event) (s : State) :
    (emit e s).progress = s.progress := rfl
@[simp] theorem emit_pwmL (e : Event) (s : State) :
    (emit e s).pwmL = s.pwmL := rfl
@[simp] theorem emit_pwmR (e : Event) (s : State) :
    (emit e s).pwmR = s.pwmR := rfl
@[simp] theorem emit_fsm (e : Event) (s : State) :
    (emit e s).fsm = s.fsm := rfl
@[simp] theorem emit_muted (e : Event) (s : State) :
    (emit e s).muted = s.muted := rfl
@[simp] theorem emit_inited (e : Event) (s : State) :
    (emit e s).inited = s.inited := rfl
@[simp] theorem emit_timerRun (e : Event) (s : State) :
    (emit e s).timerRun = s.timerRun := rfl
@[simp] theorem emit_pwmOkL (e : Event) (s : State) :
    (emit e s).pwmOkL = s.pwmOkL := rfl
@[simp] theorem emit_pwmOkR (e : Event) (s : State) :
    (emit e s).pwmOkR = s.pwmOkR := rfl
@[simp] theorem emit_responses (e : Event) (s : State) :
    (emit e s).responses = s.responses := rfl
@[simp] theorem emit_events (e : Event) (s : State) :
    (emit e s).events = s.events ++ [e] := rfl
@[simp] theorem emit_turns (e : Event) (s : State) :
    (emit e s).turns = s.turns := rfl
@[simp] theorem emit_host (e : Event) (s : State) :
    (emit e s).host = s.host := rfl

/-! ### setPwm, channel left -/

@[simp] theorem setPwm_left_cfg (p : Pulse) (s : State) :
    (setPwm .left p s).cfg = s.cfg := rfl
@[simp] theorem setPwm_left_vol (p : Pulse) (s : State) :
    (setPwm .left p s).vol = s.vol := rfl
@[simp] theorem setPwm_left_startVol (p : Pulse) (s : State) :
    (setPwm .left p s).startVol = s.startVol := rfl
@[simp] theorem setPwm_left_progress (p : Pulse) (s : State) :
    (setPwm .left p s).progress = s.progress := rfl
@[simp] theorem setPwm_left_pwmL (p : Pulse) (s : State) :
    (setPwm .left p s).pwmL = some p := rfl
@[simp] theorem setPwm_left_pwmR (p : Pulse) (s : State) :
    (setPwm .left p s).pwmR = s.pwmR := rfl
@[simp] theorem setPwm_left_fsm (p : Pulse) (s : State) :
    (setPwm .left p s).fsm = s.fsm := rfl
@[simp] theorem setPwm_left_muted (p : Pulse) (s : State) :
    (setPwm .left p s).muted = s.muted := rfl
@[simp] theorem setPwm_left_inited (p : Pulse) (s : State) :
    (setPwm .left p s).inited = s.inited := rfl
@[simp] theorem setPwm_left_timerRun (p : Pulse) (s : State) :
    (setPwm .left p s).timerRun = s.timerRun := rfl
@[simp] theorem setPwm_left_pwmOkL (p : Pulse) (s : State) :
    (setPwm .left p s).pwmOkL = s.pwmOkL := rfl
@[simp] theorem setPwm_left_pwmOkR (p : Pulse) (s : State) :
    (setPwm .left p s).pwmOkR = s.pwmOkR := rfl
@[simp] theorem setPwm_left_responses (p : Pulse) (s : State) :
    (setPwm .left p s).responses = s.responses := rfl
@[simp] theorem setPwm_left_events (p : Pulse) (s : State) :
    (setPwm .left p s).events = s.events := rfl
@[simp] theorem setPwm_left_turns (p : Pulse) (s : State) :
    (setPwm .left p s).turns = s.turns := rfl
@[simp] theorem setPwm_left_host (p : Pulse) (s : State) :
    (setPwm .left p s).host = s.host := rfl

/-! ### setPwm, channel right -/

@[simp] theorem setPwm_right_cfg (p : Pulse) (s : State) :
    (setPwm .right p s).cfg = s.cfg := rfl
@[simp] theorem setPwm_right_vol (p : Pulse) (s : State) :
    (setPwm .right p s).vol = s.vol := rfl
@[simp] theorem setPwm_right_startVol (p : Pulse) (s : State) :
    (setPwm .right p s).startVol = s.startVol := rfl
@[simp] theorem setPwm_right_progress (p : Pulse) (s : State) :
    (setPwm .right p s).progress = s.progress := rfl
@[simp] theorem setPwm_right_pwmL (p : Pulse) (s : State) :
    (setPwm .right p s).pwmL = s.pwmL := rfl
@[simp] theorem setPwm_right_pwmR (p : Pulse) (s : State) :
    (setPwm .right p s).pwmR = some p := rfl
@[simp] theorem setPwm_right_fsm (p : Pulse) (s : State) :
    (setPwm .right p s).fsm = s.fsm := rfl
@[simp] theorem setPwm_right_muted (p : Pulse) (s : State) :
    (setPwm .right p s).muted = s.muted := rfl
@[simp] theorem setPwm_right_inited (p : Pulse) (s : State) :
    (setPwm .right p s).inited = s.inited := rfl
@[simp] theorem setPwm_right_timerRun (p : Pulse) (s : State) :
    (setPwm .right p s).timerRun = s.timerRun := rfl
@[simp] theorem setPwm_right_pwmOkL (p : Pulse) (s : State) :
    (setPwm .right p s).pwmOkL = s.pwmOkL := rfl
@[simp] theorem setPwm_right_pwmOkR (p : Pulse) (s : State) :
    (setPwm .right p s).pwmOkR = s.pwmOkR := rfl
@[simp] theorem setPwm_right_responses (p : Pulse) (s : State) :
    (setPwm .right p s).responses = s.responses := rfl
@[simp] theorem setPwm_right_events (p : Pulse) (s : State) :
    (setPwm .right p s).events = s.events := rfl
@[simp] theorem setPwm_right_turns (p : Pulse) (s : State) :
    (setPwm .right p s).turns = s.turns := rfl
@[simp] theorem setPwm_right_host (p : Pulse) (s : State) :
    (setPwm .right p s).host = s.host := rfl

/-! ### assertReset -/

@[simp] theorem assertReset_cfg (s : State) :
    (assertReset s).cfg = s.cfg := rfl
@[simp] theorem assertReset_vol (s : State) :
    (assertReset s).vol = 0#8 := rfl
@[simp] theorem assertReset_startVol (s : State) :
    (assertReset s).startVol = 0#8 := rfl
@[simp] theorem assertReset_progress (s : State) :
    (assertReset s).progress = 0#16 := rfl
@[simp] theorem assertReset_pwmL (s : State) :
    (assertReset s).pwmL = none := rfl
@[simp] theorem assertReset_pwmR (s : State) :
    (assertReset s).pwmR = none := rfl
@[simp] theorem assertReset_fsm (s : State) :
    (assertReset s).fsm = .idle := rfl
@[simp] theorem assertReset_muted (s : State) :
    (assertReset s).muted = true := rfl
@[simp] theorem assertReset_inited (s : State) :
    (assertReset s).inited = false := rfl
@[simp] theorem assertReset_timerRun (s : State) :
    (assertReset s).timerRun = false := rfl
@[simp] theorem assertReset_pwmOkL (s : State) :
    (assertReset s).pwmOkL = s.pwmOkL := rfl
@[simp] theorem assertReset_pwmOkR (s : State) :
    (assertReset s).pwmOkR = s.pwmOkR := rfl
@[simp] theorem assertReset_responses (s : State) :
    (assertReset s).responses = [] := rfl
@[simp] theorem assertReset_events (s : State) :
    (assertReset s).events = [] := rfl
@[simp] theorem assertReset_turns (s : State) :
    (assertReset s).turns = s.turns := rfl
@[simp] theorem assertReset_host (s : State) :
    (assertReset s).host = s.host := rfl

/-! ### hostPhase -/

@[simp] theorem hostPhase_cfg (p : HostPhase) (s : State) :
    (hostPhase p s).cfg = s.cfg := rfl
@[simp] theorem hostPhase_vol (p : HostPhase) (s : State) :
    (hostPhase p s).vol = s.vol := rfl
@[simp] theorem hostPhase_startVol (p : HostPhase) (s : State) :
    (hostPhase p s).startVol = s.startVol := rfl
@[simp] theorem hostPhase_progress (p : HostPhase) (s : State) :
    (hostPhase p s).progress = s.progress := rfl
@[simp] theorem hostPhase_pwmL (p : HostPhase) (s : State) :
    (hostPhase p s).pwmL = s.pwmL := rfl
@[simp] theorem hostPhase_pwmR (p : HostPhase) (s : State) :
    (hostPhase p s).pwmR = s.pwmR := rfl
@[simp] theorem hostPhase_fsm (p : HostPhase) (s : State) :
    (hostPhase p s).fsm = s.fsm := rfl
@[simp] theorem hostPhase_muted (p : HostPhase) (s : State) :
    (hostPhase p s).muted = s.muted := rfl
@[simp] theorem hostPhase_inited (p : HostPhase) (s : State) :
    (hostPhase p s).inited = s.inited := rfl
@[simp] theorem hostPhase_timerRun (p : HostPhase) (s : State) :
    (hostPhase p s).timerRun = s.timerRun := rfl
@[simp] theorem hostPhase_pwmOkL (p : HostPhase) (s : State) :
    (hostPhase p s).pwmOkL = s.pwmOkL := rfl
@[simp] theorem hostPhase_pwmOkR (p : HostPhase) (s : State) :
    (hostPhase p s).pwmOkR = s.pwmOkR := rfl
@[simp] theorem hostPhase_responses (p : HostPhase) (s : State) :
    (hostPhase p s).responses = s.responses := rfl
@[simp] theorem hostPhase_events (p : HostPhase) (s : State) :
    (hostPhase p s).events = s.events := rfl
@[simp] theorem hostPhase_turns (p : HostPhase) (s : State) :
    (hostPhase p s).turns = s.turns := rfl
@[simp] theorem hostPhase_host (p : HostPhase) (s : State) :
    (hostPhase p s).host = { s.host with phase := p } := rfl

/-! ### hostFinish -/

@[simp] theorem hostFinish_cfg (r : HostResult) (s : State) :
    (hostFinish r s).cfg = s.cfg := rfl
@[simp] theorem hostFinish_vol (r : HostResult) (s : State) :
    (hostFinish r s).vol = s.vol := rfl
@[simp] theorem hostFinish_startVol (r : HostResult) (s : State) :
    (hostFinish r s).startVol = s.startVol := rfl
@[simp] theorem hostFinish_progress (r : HostResult) (s : State) :
    (hostFinish r s).progress = s.progress := rfl
@[simp] theorem hostFinish_pwmL (r : HostResult) (s : State) :
    (hostFinish r s).pwmL = s.pwmL := rfl
@[simp] theorem hostFinish_pwmR (r : HostResult) (s : State) :
    (hostFinish r s).pwmR = s.pwmR := rfl
@[simp] theorem hostFinish_fsm (r : HostResult) (s : State) :
    (hostFinish r s).fsm = s.fsm := rfl
@[simp] theorem hostFinish_muted (r : HostResult) (s : State) :
    (hostFinish r s).muted = s.muted := rfl
@[simp] theorem hostFinish_inited (r : HostResult) (s : State) :
    (hostFinish r s).inited = s.inited := rfl
@[simp] theorem hostFinish_timerRun (r : HostResult) (s : State) :
    (hostFinish r s).timerRun = s.timerRun := rfl
@[simp] theorem hostFinish_pwmOkL (r : HostResult) (s : State) :
    (hostFinish r s).pwmOkL = s.pwmOkL := rfl
@[simp] theorem hostFinish_pwmOkR (r : HostResult) (s : State) :
    (hostFinish r s).pwmOkR = s.pwmOkR := rfl
@[simp] theorem hostFinish_responses (r : HostResult) (s : State) :
    (hostFinish r s).responses = s.responses := rfl
@[simp] theorem hostFinish_events (r : HostResult) (s : State) :
    (hostFinish r s).events = s.events := rfl
@[simp] theorem hostFinish_turns (r : HostResult) (s : State) :
    (hostFinish r s).turns = s.turns := rfl
@[simp] theorem hostFinish_host (r : HostResult) (s : State) :
    (hostFinish r s).host = { s.host with phase := .idle, results := s.host.results ++ [r] } := rfl

/-! ### hostAmp -/

@[simp] theorem hostAmp_cfg (on : Bool) (s : State) :
    (hostAmp on s).cfg = s.cfg := rfl
@[simp] theorem hostAmp_vol (on : Bool) (s : State) :
    (hostAmp on s).vol = s.vol := rfl
@[simp] theorem hostAmp_startVol (on : Bool) (s : State) :
    (hostAmp on s).startVol = s.startVol := rfl
@[simp] theorem hostAmp_progress (on : Bool) (s : State) :
    (hostAmp on s).progress = s.progress := rfl
@[simp] theorem hostAmp_pwmL (on : Bool) (s : State) :
    (hostAmp on s).pwmL = s.pwmL := rfl
@[simp] theorem hostAmp_pwmR (on : Bool) (s : State) :
    (hostAmp on s).pwmR = s.pwmR := rfl
@[simp] theorem hostAmp_fsm (on : Bool) (s : State) :
    (hostAmp on s).fsm = s.fsm := rfl
@[simp] theorem hostAmp_muted (on : Bool) (s : State) :
    (hostAmp on s).muted = s.muted := rfl
@[simp] theorem hostAmp_inited (on : Bool) (s : State) :
    (hostAmp on s).inited = s.inited := rfl
@[simp] theorem hostAmp_timerRun (on : Bool) (s : State) :
    (hostAmp on s).timerRun = s.timerRun := rfl
@[simp] theorem hostAmp_pwmOkL (on : Bool) (s : State) :
    (hostAmp on s).pwmOkL = s.pwmOkL := rfl
@[simp] theorem hostAmp_pwmOkR (on : Bool) (s : State) :
    (hostAmp on s).pwmOkR = s.pwmOkR := rfl
@[simp] theorem hostAmp_responses (on : Bool) (s : State) :
    (hostAmp on s).responses = s.responses := rfl
@[simp] theorem hostAmp_events (on : Bool) (s : State) :
    (hostAmp on s).events = s.events := rfl
@[simp] theorem hostAmp_turns (on : Bool) (s : State) :
    (hostAmp on s).turns = s.turns := rfl
@[simp] theorem hostAmp_host (on : Bool) (s : State) :
    (hostAmp on s).host = { s.host with ampOn := on } := rfl

/-! ### hostSubmit -/

@[simp] theorem hostSubmit_cfg (task : HostTask) (s : State) :
    (hostSubmit task s).cfg = s.cfg := rfl
@[simp] theorem hostSubmit_vol (task : HostTask) (s : State) :
    (hostSubmit task s).vol = s.vol := rfl
@[simp] theorem hostSubmit_startVol (task : HostTask) (s : State) :
    (hostSubmit task s).startVol = s.startVol := rfl
@[simp] theorem hostSubmit_progress (task : HostTask) (s : State) :
    (hostSubmit task s).progress = s.progress := rfl
@[simp] theorem hostSubmit_pwmL (task : HostTask) (s : State) :
    (hostSubmit task s).pwmL = s.pwmL := rfl
@[simp] theorem hostSubmit_pwmR (task : HostTask) (s : State) :
    (hostSubmit task s).pwmR = s.pwmR := rfl
@[simp] theorem hostSubmit_fsm (task : HostTask) (s : State) :
    (hostSubmit task s).fsm = s.fsm := rfl
@[simp] theorem hostSubmit_muted (task : HostTask) (s : State) :
    (hostSubmit task s).muted = s.muted := rfl
@[simp] theorem hostSubmit_inited (task : HostTask) (s : State) :
    (hostSubmit task s).inited = s.inited := rfl
@[simp] theorem hostSubmit_timerRun (task : HostTask) (s : State) :
    (hostSubmit task s).timerRun = s.timerRun := rfl
@[simp] theorem hostSubmit_pwmOkL (task : HostTask) (s : State) :
    (hostSubmit task s).pwmOkL = s.pwmOkL := rfl
@[simp] theorem hostSubmit_pwmOkR (task : HostTask) (s : State) :
    (hostSubmit task s).pwmOkR = s.pwmOkR := rfl
@[simp] theorem hostSubmit_responses (task : HostTask) (s : State) :
    (hostSubmit task s).responses = s.responses := rfl
@[simp] theorem hostSubmit_events (task : HostTask) (s : State) :
    (hostSubmit task s).events = s.events := rfl
@[simp] theorem hostSubmit_turns (task : HostTask) (s : State) :
    (hostSubmit task s).turns = s.turns := rfl
@[simp] theorem hostSubmit_host (task : HostTask) (s : State) :
    (hostSubmit task s).host = { s.host with tasks := s.host.tasks ++ [task] } := rfl

end Sys2Proof.Machine
end

