-- ==== Sys2Proof/Laws/Ops.lean ====
section
/-! SUPPORT. One lemma per shared operation that says what it can do: the write primitive, the gate, the commands, the port, the driver's `ask`. -/

namespace Sys2Proof.Machine

@[simp] theorem pwmOk_left (s : State) : pwmOk .left s = s.pwmOkL := rfl

@[simp] theorem pwmOk_right (s : State) : pwmOk .right s = s.pwmOkR := rfl

@[simp] theorem pwmReg_left (s : State) : pwmReg .left s = s.pwmL := rfl

@[simp] theorem pwmReg_right (s : State) : pwmReg .right s = s.pwmR := rfl

/-- An accepted write sets the register and leaves its event (40_convert.md R67). -/
theorem pwmWrite_accepted {ch : Channel} {s : State} (h : pwmOk ch s = true) (p : Pulse) :
    pwmWrite ch p s = emit (.pwmWritten ch p) (setPwm ch p s) := by simp [pwmWrite, h]

/-- A refused write leaves its event and nothing else (40_convert.md R67). -/
theorem pwmWrite_refused {ch : Channel} {s : State} (h : pwmOk ch s = false) (p : Pulse) :
    pwmWrite ch p s = emit (.pwmWriteFailed ch) s := by simp [pwmWrite, h]

/-- What a write to the left channel leaves, whichever way it went. -/
theorem pwmWrite_left (p : Pulse) (s : State) :
    pwmWrite .left p s = { s with
      pwmL := if s.pwmOkL then some p else s.pwmL
      events := s.events ++ [if s.pwmOkL then .pwmWritten .left p else .pwmWriteFailed .left] } := by
  cases h : s.pwmOkL <;> simp [pwmWrite, h, emit, setPwm]

/-- What a write to the right channel leaves, whichever way it went. -/
theorem pwmWrite_right (p : Pulse) (s : State) :
    pwmWrite .right p s = { s with
      pwmR := if s.pwmOkR then some p else s.pwmR
      events := s.events ++ [if s.pwmOkR then .pwmWritten .right p else .pwmWriteFailed .right] } := by
  cases h : s.pwmOkR <;> simp [pwmWrite, h, emit, setPwm]

/-- What the silence action leaves (41_ramp.md R80). -/
theorem silenceAction_eq (s : State) :
    silenceAction s = { s with
      pwmL := if s.pwmOkL then some (silencePulse s.cfg) else s.pwmL
      pwmR := if s.pwmOkR then some (silencePulse s.cfg) else s.pwmR
      events := s.events ++ [.silenceAction,
        if s.pwmOkL then .pwmWritten .left (silencePulse s.cfg) else .pwmWriteFailed .left,
        if s.pwmOkR then .pwmWritten .right (silencePulse s.cfg) else .pwmWriteFailed .right] } := by
  simp [silenceAction, pwmWrite_left, pwmWrite_right, emit]

/-- The last tick of an unmute ramp: the timer stops and nothing is silenced (41_ramp.md R78). -/
theorem rampEnd_toUnmute (s : State) :
    rampEnd .toUnmute s = { s with
      timerRun := false, progress := 0#16, fsm := .idle, events := s.events ++ [.timerStop] } := rfl

/-- The last tick of a mute ramp: the timer stops and the silence action follows (41_ramp.md R78, R80). -/
theorem rampEnd_toMute (s : State) :
    rampEnd .toMute s = { s with
      timerRun := false, progress := 0#16, fsm := .idle
      pwmL := if s.pwmOkL then some (silencePulse s.cfg) else s.pwmL
      pwmR := if s.pwmOkR then some (silencePulse s.cfg) else s.pwmR
      events := s.events ++ [.timerStop, .silenceAction,
        if s.pwmOkL then .pwmWritten .left (silencePulse s.cfg) else .pwmWriteFailed .left,
        if s.pwmOkR then .pwmWritten .right (silencePulse s.cfg) else .pwmWriteFailed .right] } := by
  cases hl : s.pwmOkL <;> cases hr : s.pwmOkR <;>
    simp [rampEnd, silenceAction, pwmWrite, emit, setPwm, hl, hr]

/-- Everything a turn of the timer can do (41_ramp.md R78, R79): nothing, one step of a ramp, or its last step. -/
theorem timerTurn_cases (s : State) :
    ((s.timerRun = false ∨ s.fsm = .idle) ∧ timerTurn s = s) ∨
    ∃ dir v, s.timerRun = true ∧ s.fsm = dirFsm dir ∧
      v = BitVec.ofInt 8 (rampVolume s.cfg dir s.startVol.toNat (s.progress.toNat + 1)) ∧
      ((s.progress.toNat + 1 ≠ s.cfg.stepCount ∧
          timerTurn s = { s with vol := v, progress := BitVec.ofNat 16 (s.progress.toNat + 1) }) ∨
        (s.progress.toNat + 1 = s.cfg.stepCount ∧ timerTurn s = rampEnd dir { s with vol := v })) := by
  cases ht : s.timerRun
  · exact .inl ⟨.inl rfl, by simp [timerTurn, ht]⟩
  · cases hf : s.fsm
    case idle => exact .inl ⟨.inr rfl, by simp [timerTurn, ht, tick, hf]⟩
    case rampingToMute =>
      refine .inr ⟨.toMute, _, rfl, rfl, rfl, ?_⟩
      by_cases hp : s.progress.toNat + 1 = s.cfg.stepCount
      · exact .inr ⟨hp, by simp [timerTurn, ht, tick, hf, rampTick, hp]⟩
      · exact .inl ⟨hp, by simp [timerTurn, ht, tick, hf, rampTick, hp]⟩
    case rampingToUnmute =>
      refine .inr ⟨.toUnmute, _, rfl, rfl, rfl, ?_⟩
      by_cases hp : s.progress.toNat + 1 = s.cfg.stepCount
      · exact .inr ⟨hp, by simp [timerTurn, ht, tick, hf, rampTick, hp]⟩
      · exact .inl ⟨hp, by simp [timerTurn, ht, tick, hf, rampTick, hp]⟩

theorem gated_ready {s : State} (h : s.inited = true) (body : State → State) : gated body s = body s := by
  simp [gated, h]

theorem gated_notReady {s : State} (h : s.inited = false) (body : State → State) :
    gated body s = respond .errNotReady 0#32 s := by simp [gated, h]

/-- Every command answers a next state. -/
theorem exec_next (i : Instr) (s : State) : ∃ t, exec i s = .next t := by
  cases i <;> exact ⟨_, rfl⟩

theorem command_legal {w : Word} {i : Instr} (h : decode w = .ok i) (s : State) : command w s = exec i s := by
  simp [command, h]

theorem command_illegal {w : Word} {e : DecodeError} (h : decode w = .error e) (s : State) :
    command w s = .next (respondIllegal s) := by simp [command, h]

/-- Every word on the port answers a next state. -/
theorem command_next (w : Word) (s : State) : ∃ t, command w s = .next t := by
  unfold command
  split
  · exact exec_next _ _
  · exact ⟨_, rfl⟩

/-- A command of the driver always ends in a next state. -/
theorem ask_next (i : Instr) (k : Response → State → State) (s : State) : ∃ t, ask i k s = .next t := by
  obtain ⟨t, ht⟩ := command_next (encode i) s
  unfold ask
  rw [ht]
  dsimp only
  split <;> exact ⟨_, rfl⟩

/-- The driver goes on with the response its command appended. -/
theorem ask_eq {i : Instr} {s t : State} {rs : List Response} {r : Response}
    (h : command (encode i) s = .next t) (hr : t.responses = rs ++ [r]) (k : Response → State → State) :
    ask i k s = .next (k r t) := by
  simp [ask, h, hr]

end Sys2Proof.Machine
end

