-- ==== Sys2Proof/Laws/Agents.lean ====
section
/-! SUPPORT. What one turn of each agent can do, said once: the step in a legal configuration, a command's one response, the driver's turn as a command followed by a change of the host's own data, and the step as one of its moves. -/

namespace Sys2Proof.Machine

theorem step_of_legal {s : State} (h : legal s.cfg) : step s = runTurn s := if_pos h

theorem legal_of_step {s t : State} (h : step s = .next t) : legal s.cfg := by
  by_contra hc
  simp only [step, if_neg hc] at h
  cases h

theorem run_zero (s : State) : run 0 s = .next s := rfl

/-- The first of several steps. -/
theorem run_succ {s t : State} (k : Nat) (h : step s = .next t) : run (k + 1) s = run k t := by
  simp only [run, Host.Core.run, Sys2Proof.core, h]

/-- A run that ends in a state makes its first step. -/
theorem run_succ_inv {k : Nat} {s u : State} (h : run (k + 1) s = .next u) :
    ∃ t, step s = .next t ∧ run k t = .next u := by
  simp only [run, Host.Core.run, Sys2Proof.core] at h
  cases hs : step s with
  | next t => rw [hs] at h; exact ⟨t, rfl, h⟩
  | fault f => rw [hs] at h; cases h
  | refused r => rw [hs] at h; cases h

/-- An operation that appends exactly one response. -/
def AppendsResponse (f : State → State) : Prop :=
  ∀ s, ∃ r, (f s).responses = s.responses ++ [r]

theorem emitChannel_response (ch : Channel) (p : Pulse) : AppendsResponse (emitChannel ch p) := by
  intro s
  unfold emitChannel
  cases ch <;> split <;> exact ⟨_, by simp [pwmWrite_left, pwmWrite_right]; rfl⟩

theorem emitBoth_response (p : Pulse) : AppendsResponse (emitBoth p) := by
  intro s
  unfold emitBoth
  split
  · obtain ⟨r, hr⟩ := emitChannel_response .right p (pwmWrite .left p s)
    exact ⟨r, by simpa [pwmWrite_left] using hr⟩
  · exact ⟨_, by simp [pwmWrite_left]; rfl⟩

theorem rampRequest_response (dir : Dir) : AppendsResponse (rampRequest dir) := by
  intro s
  unfold rampRequest rampStart startTimer
  split
  · exact ⟨_, rfl⟩
  · split <;> exact ⟨_, rfl⟩

/-- Every command answers a next state with one response more (30_encoding.md R43). -/
theorem exec_response (i : Instr) (s : State) :
    ∃ t r, exec i s = .next t ∧ t.responses = s.responses ++ [r] := by
  have hg : ∀ body : State → State, AppendsResponse body →
      ∃ t r, Host.Outcome.next (φ := Fault) (ρ := Refusal) (gated body s) = .next t ∧
        t.responses = s.responses ++ [r] := by
    intro body hb
    unfold gated
    split
    · obtain ⟨r, hr⟩ := hb s
      exact ⟨_, r, rfl, hr⟩
    · exact ⟨_, _, rfl, rfl⟩
  cases i with
  | init =>
    simp only [exec, execInit]
    split
    · exact ⟨_, _, rfl, rfl⟩
    · unfold initDevice
      split
      · exact ⟨_, _, rfl, by simp [pwmWrite_left, pwmWrite_right]; rfl⟩
      · exact ⟨_, _, rfl, rfl⟩
  | rdst => exact ⟨_, _, rfl, rfl⟩
  | rdcfg idx =>
    simp only [exec, execRdcfg]
    split <;> exact ⟨_, _, rfl, rfl⟩
  | conv vol8 imm16 => exact ⟨_, _, rfl, rfl⟩
  | emitm imm16 => exact hg _ (fun u => emitBoth_response _ u)
  | emitl imm16 => exact hg _ (fun u => emitChannel_response _ _ u)
  | emitr imm16 => exact hg _ (fun u => emitChannel_response _ _ u)
  | mute => exact hg _ (rampRequest_response _)
  | unmute => exact hg _ (rampRequest_response _)
  | setvol imm16 => exact hg _ (fun u => ⟨_, rfl⟩)

/-- Every word on the port is answered once. -/
theorem command_response (w : Word) (s : State) :
    ∃ t r, command w s = .next t ∧ t.responses = s.responses ++ [r] := by
  unfold command
  split
  · exact exec_response _ _
  · exact ⟨_, _, rfl, rfl⟩

/-- The driver's command: the port's next state, handed on with its response. -/
theorem ask_cases {i : Instr} {k : Response → State → State} {s t : State} (h : ask i k s = .next t) :
    ∃ u r, command (encode i) s = .next u ∧ u.responses = s.responses ++ [r] ∧ t = k r u := by
  obtain ⟨u, r, hu, hr⟩ := command_response (encode i) s
  rw [ask_eq hu hr] at h
  cases h
  exact ⟨u, r, hu, hr, rfl⟩

/-- A continuation that changes the host's own data only. -/
def HostOnly (k : Response → State → State) : Prop :=
  ∀ r u, ∃ h, k r u = { u with host := h }

theorem continueMono_hostOnly (rest : List Imm16) : HostOnly fun _ => continueMono rest := by
  intro r u
  cases rest <;> exact ⟨_, rfl⟩

theorem continueStereo_hostOnly (rest : List Imm16) : HostOnly fun _ => continueStereo rest := by
  intro r u
  cases rest <;> exact ⟨_, rfl⟩

theorem hostPhase_hostOnly (p : HostPhase) : HostOnly fun _ => hostPhase p := fun _ _ => ⟨_, rfl⟩

theorem hostFinish_hostOnly (res : HostResult) : HostOnly fun _ => hostFinish res := fun _ _ => ⟨_, rfl⟩

theorem playCheck_hostOnly {begin : State → State} (h : HostOnly fun _ => begin) : HostOnly (playCheck begin) := by
  intro r u
  unfold playCheck
  split
  · exact ⟨_, rfl⟩
  · split
    · exact ⟨_, rfl⟩
    · exact h r u

theorem unlessHwError_hostOnly {k : State → State} (h : HostOnly fun _ => k) : HostOnly (unlessHwError k) := by
  intro r u
  unfold unlessHwError
  split
  · exact ⟨_, rfl⟩
  · exact h r u

theorem afterMono_hostOnly (rest : List Imm16) : HostOnly (afterMono rest) := by
  intro r u
  unfold afterMono
  split
  · exact ⟨_, rfl⟩
  · exact unlessHwError_hostOnly (continueMono_hostOnly rest) r u

theorem afterPoll_hostOnly (b : Bool) : HostOnly (afterPoll b) := by
  intro r u
  unfold afterPoll
  split
  · cases b <;> exact ⟨_, rfl⟩
  · exact ⟨_, rfl⟩

theorem afterInit_hostOnly : HostOnly afterInit := by
  intro r u
  unfold afterInit
  split <;> exact ⟨_, rfl⟩

/-- A turn of the host is a change of the host's own data, or one command on the port before such a change. -/
def HostMove (s t : State) : Prop :=
  (∃ h, t = { s with host := h }) ∨
  ∃ w h h' u, command w { s with host := h } = .next u ∧ t = { u with host := h' }

/-- What holds of every change of the host's data and of every command before one holds of every turn of the host. -/
theorem HostMove.elim {P : State → Prop} {s t : State} (h : HostMove s t) (own : ∀ g, P { s with host := g })
    (cmd : ∀ w g g' u, command w { s with host := g } = .next u → P { u with host := g' }) : P t := by
  rcases h with ⟨g, rfl⟩ | ⟨w, g, g', u, hu, rfl⟩
  · exact own g
  · exact cmd w g g' u hu

theorem ask_hostMove {i : Instr} {k : Response → State → State} (hk : HostOnly k) {s t : State} {h : HostState}
    (ha : ask i k { s with host := h } = .next t) : HostMove s t := by
  obtain ⟨u, r, hu, -, rfl⟩ := ask_cases ha
  obtain ⟨h', hh⟩ := hk r u
  exact .inr ⟨_, h, h', u, hu, hh⟩

theorem startTask_hostMove {task : HostTask} {s t : State} {h : HostState}
    (ha : startTask task { s with host := h } = .next t) : HostMove s t := by
  cases task with
  | word w =>
    obtain ⟨u, hu⟩ := command_next w { s with host := h }
    simp only [startTask, hu] at ha
    cases ha
    exact .inr ⟨w, h, _, u, hu, rfl⟩
  | emits l r => exact ask_hostMove (unlessHwError_hostOnly (hostPhase_hostOnly _)) ha
  | playM buf => exact ask_hostMove (i := .rdst) (h := h) (playCheck_hostOnly (continueMono_hostOnly buf)) ha
  | playS buf =>
    simp only [startTask] at ha
    split at ha
    · exact ask_hostMove (playCheck_hostOnly (continueStereo_hostOnly buf)) ha
    · cases ha
  | rampWait => exact ask_hostMove (i := .rdst) (h := h) (afterPoll_hostOnly false) ha
  | bringup => exact ask_hostMove (i := .init) (h := h) afterInit_hostOnly ha
  | shutdown => exact ask_hostMove (i := .mute) (h := h) (hostPhase_hostOnly (.polling true)) ha

theorem hostTurn_cases {s t : State} (h : hostTurn s = .next t) : HostMove s t := by
  unfold hostTurn at h
  split at h
  · split at h
    · cases h
      exact .inl ⟨s.host, rfl⟩
    · exact startTask_hostMove h
  · exact ask_hostMove (h := s.host) (unlessHwError_hostOnly (hostFinish_hostOnly _)) h
  · cases h
    exact .inl ⟨_, rfl⟩
  · exact ask_hostMove (h := s.host) (afterMono_hostOnly _) h
  · cases h
    exact .inl ⟨_, rfl⟩
  · cases h
  · exact ask_hostMove (h := s.host) (unlessHwError_hostOnly (hostPhase_hostOnly _)) h
  · exact ask_hostMove (h := s.host) (unlessHwError_hostOnly (continueStereo_hostOnly _)) h
  · exact ask_hostMove (h := s.host) (afterPoll_hostOnly _) h
  · exact ask_hostMove (h := s.host) (hostFinish_hostOnly _) h

/-- Everything a step can do: with the turn taken (the list `ts` left), a word on the port, a delivery that is no word,
a turn of the host, a tick, new inputs, or a reset. -/
theorem step_cases {s t : State} (h : step s = .next t) :
    legal s.cfg ∧ ∃ ts,
      (∃ w, command w { s with turns := ts } = .next t) ∨
      t = { s with turns := ts } ∨
      HostMove { s with turns := ts } t ∨
      ((s.turns = [] ∨ s.turns.head? = some .tick) ∧ t = timerTurn { s with turns := ts }) ∨
      (∃ l r, t = { s with turns := ts, pwmOkL := l, pwmOkR := r }) ∨
      (s.turns.head? = some .reset ∧ t = assertReset { s with turns := ts }) := by
  have hl := legal_of_step h
  refine ⟨hl, ?_⟩
  rw [step_of_legal hl] at h
  unfold runTurn at h
  split at h
  case h_1 x ts hts =>
    refine ⟨ts, ?_⟩
    cases x with
    | word w => exact .inl ⟨w, h⟩
    | bytes bs =>
      simp only [takeTurn, deliver] at h
      split at h
      · exact .inl ⟨_, h⟩
      · cases h
        exact .inr (.inl rfl)
    | host => exact .inr (.inr (.inl (hostTurn_cases h)))
    | submit task =>
      cases h
      exact .inr (.inr (.inl (.inl ⟨_, rfl⟩)))
    | tick =>
      cases h
      exact .inr (.inr (.inr (.inl ⟨.inr (by simp [hts]), rfl⟩)))
    | env l r =>
      cases h
      exact .inr (.inr (.inr (.inr (.inl ⟨l, r, rfl⟩))))
    | reset =>
      cases h
      exact .inr (.inr (.inr (.inr (.inr ⟨by simp [hts], rfl⟩))))
  case h_2 hts =>
    have hs : { s with turns := [] } = s := by cases s; simp_all
    refine ⟨[], ?_⟩
    rw [hs]
    unfold freeTurn at h
    split at h
    · cases h
      exact .inr (.inr (.inr (.inl ⟨.inl hts, rfl⟩)))
    · exact .inr (.inr (.inl (hostTurn_cases h)))

end Sys2Proof.Machine
end

