-- ==== Sys2Proof/Laws/Convert.lean ====
section
/-! SUPPORT. The stages of the conversion and the ramp interpolation as numbers: the facts that let a later proof speak of a pulse or a volume without unfolding a stage. -/

namespace Sys2Proof.Machine

/-- The scale stage as two floors (40_convert.md R60). -/
theorem tdiv_cases (a : Int) : (0 ≤ a ∧ tdiv a 256 = a / 256) ∨ (a < 0 ∧ tdiv a 256 = -(-a / 256)) := by
  unfold tdiv fdiv
  split <;> omega

/-- The unsigned code is one byte (40_convert.md R62). -/
theorem unsignedCode_range (s v : Int) : 0 ≤ unsignedCode s v ∧ unsignedCode s v ≤ 255 := by
  unfold unsignedCode clipped clamp
  split
  · omega
  · split <;> omega

/-- A clamped value is in its range. -/
theorem clamp_range {lo hi : Int} (h : lo ≤ hi) (x : Int) : lo ≤ clamp x lo hi ∧ clamp x lo hi ≤ hi := by
  unfold clamp
  split
  · omega
  · split <;> omega

/-- The pulse register holds exactly what the conversion gives. -/
theorem convertPulse_toNat {c : Params} (hc : legal c) (imm : Imm16) (v : Byte) :
    ((convertPulse c imm v).toNat : Int) = convert c (sext16 imm) (zext8 v) := by
  have h := clamp_range (lo := c.minMarginNs) (hi := c.periodNs - c.minMarginNs) (by omega)
    (pulseNs c (sext16 imm) (zext8 v))
  simp only [convertPulse, BitVec.toNat_ofInt]
  unfold convert
  omega

/-- The silence pulse is half the period (00_scope.md R5). -/
theorem silencePulse_toNat {c : Params} (hc : legal c) : (silencePulse c).toNat = c.periodNs / 2 := by
  simp only [silencePulse, silenceNs, BitVec.toNat_ofNat]
  omega

/-- The unmute interpolation as a natural number (41_ramp.md R77). -/
theorem rampVolume_toUnmute (c : Params) (start p : Nat) :
    rampVolume c .toUnmute start p = (c.maxVolume * p / c.stepCount : Nat) := by
  simp [rampVolume, fdiv]

/-- The mute interpolation as a difference of natural numbers (41_ramp.md R77). -/
theorem rampVolume_toMute (c : Params) (start p : Nat) :
    rampVolume c .toMute start p = (start : Int) - (start * p / c.stepCount : Nat) := by
  simp [rampVolume, fdiv]

end Sys2Proof.Machine
end

