-- ==== Sys2Proof/Laws/Invariant.lean ====
section
/-! SUPPORT. A Boolean check of the invariant of 10_state.md R20, for concrete states. -/

namespace Sys2Proof.Machine

/-- A PWM register that is unwritten or within its range (10_state.md R20 item 7). -/
def pwmInRange (c : Params) : Option Pulse → Bool
  | none => true
  | some p => decide (pulseLo c ≤ p.toNat ∧ p.toNat ≤ pulseHi c)

theorem pwmInRange_some {c : Params} {r : Option Pulse} (h : pwmInRange c r = true) (p : Pulse) (hp : r = some p) :
    pulseLo c ≤ p.toNat ∧ p.toNat ≤ pulseHi c := by
  subst hp
  simpa [pwmInRange] using h

/-- The eight items of 10_state.md R20, computed. -/
def invariantCheck (s : State) : Bool :=
  decide (s.vol.toNat ≤ s.cfg.maxVolume) && decide (s.startVol.toNat ≤ s.cfg.maxVolume) &&
  decide (s.progress.toNat < s.cfg.stepCount) && decide (s.fsm = .idle → s.progress = 0#16) &&
  decide (s.timerRun = true ↔ s.fsm ≠ .idle) && decide (s.fsm = .rampingToMute → s.muted = true) &&
  decide (s.fsm = .rampingToUnmute → s.muted = false) && decide (s.timerRun = true → s.inited = true) &&
  decide (s.muted = false → s.inited = true) && pwmInRange s.cfg s.pwmL && pwmInRange s.cfg s.pwmR &&
  decide (s.inited = true → s.pwmL.isSome = true ∧ s.pwmR.isSome = true)

theorem invariant_of_check {s : State} (h : invariantCheck s = true) : Invariant s := by
  simp only [invariantCheck, Bool.and_eq_true, decide_eq_true_eq] at h
  obtain ⟨⟨⟨⟨⟨⟨⟨⟨⟨⟨⟨h1, h2⟩, h3⟩, h4⟩, h5⟩, h6⟩, h7⟩, h8⟩, h9⟩, h10⟩, h11⟩, h12⟩ := h
  exact ⟨h1, h2, h3, h4, h5, h6, h7, h8, h9, pwmInRange_some h10, pwmInRange_some h11, h12⟩

end Sys2Proof.Machine
end

