-- ==== Sys2Proof/Laws/PerInstr.lean ====
section
/-! SUPPORT. Facts about every command as syntax, one lemma per constructor. -/

namespace Sys2Proof.Laws.OpcodeField

/-- The word of a command carries its opcode of 30_encoding.md R44 in `cmd[31:24]`. -/
def Statement (i : Instr) : Prop := opField (encode i) = opcodeOf i

theorem init : Statement .init := opField_packWord _ _ _

theorem rdst : Statement .rdst := opField_packWord _ _ _

theorem rdcfg (idx : Byte) : Statement (.rdcfg idx) := opField_packWord _ _ _

theorem conv (vol8 : Byte) (imm16 : Imm16) : Statement (.conv vol8 imm16) := opField_packWord _ _ _

theorem emitm (imm16 : Imm16) : Statement (.emitm imm16) := opField_packWord _ _ _

theorem emitl (imm16 : Imm16) : Statement (.emitl imm16) := opField_packWord _ _ _

theorem emitr (imm16 : Imm16) : Statement (.emitr imm16) := opField_packWord _ _ _

theorem mute : Statement .mute := opField_packWord _ _ _

theorem unmute : Statement .unmute := opField_packWord _ _ _

theorem setvol (imm16 : Imm16) : Statement (.setvol imm16) := opField_packWord _ _ _

end Sys2Proof.Laws.OpcodeField
end

