-- ==== Sys2Proof/Laws/Runs.lean ====
section
/-! SUPPORT. How each kind of turn steps, what a tick leaves alone, how runs join, and what each command of the driver hands to its continuation. -/

namespace Sys2Proof.Machine

/-! ### One step, turn by turn -/

theorem step_word {s : State} {w : Word} {ts : List Turn} (hc : legal s.cfg) (h : s.turns = .word w :: ts) :
    step s = command w { s with turns := ts } := by
  rw [step_of_legal hc]
  simp [runTurn, h, takeTurn]

theorem step_tick {s : State} {ts : List Turn} (hc : legal s.cfg) (h : s.turns = .tick :: ts) :
    step s = .next (timerTurn { s with turns := ts }) := by
  rw [step_of_legal hc]
  simp [runTurn, h, takeTurn]

theorem step_timer {s : State} (hc : legal s.cfg) (h : s.turns = []) (hr : s.timerRun = true) :
    step s = .next (timerTurn s) := by
  rw [step_of_legal hc]
  simp [runTurn, h, freeTurn, hr]

theorem step_host {s : State} (hc : legal s.cfg) (h : s.turns = []) (hr : s.timerRun = false) :
    step s = hostTurn s := by
  rw [step_of_legal hc]
  simp [runTurn, h, freeTurn, hr]

/-- An offered turn is the turn taken, and the turns listed stay. -/
theorem stepWith_of_legal {s : State} (hc : legal s.cfg) (x : Turn) : stepWith x s = takeTurn x s := by
  unfold stepWith
  rw [step_of_legal (by exact hc)]
  rfl

/-- A schedule none of whose turns is refused leads through an infinite run. -/
theorem infiniteRun_statesOf {sched : Nat → Turn} {s : State}
    (h : ∀ n, ∃ t, stepWith (sched n) (statesOf sched s n) = .next t) : InfiniteRun sched (statesOf sched s) := by
  intro n
  obtain ⟨t, ht⟩ := h n
  rw [ht, statesOf, ht]

/-- A run goes on from where its first part ends. -/
theorem run_add : ∀ (k : Nat) {s t : State}, run k s = .next t → ∀ j, run (k + j) s = run j t := by
  intro k
  induction k with
  | zero =>
    intro s t h j
    cases h
    rw [Nat.zero_add]
  | succ k ih =>
    intro s t h j
    obtain ⟨u, hu, hk⟩ := run_succ_inv h
    rw [Nat.add_right_comm, run_succ _ hu]
    exact ih hk j

/-! ### What a turn of the timer leaves alone -/

/-- A turn of the timer writes VOL, PROGRESS, FSM, TIMER_RUN, the PWM registers and the trace only (41_ramp.md R78). -/
theorem timerTurn_frame (s : State) :
    (timerTurn s).cfg = s.cfg ∧ (timerTurn s).startVol = s.startVol ∧ (timerTurn s).muted = s.muted ∧
      (timerTurn s).inited = s.inited ∧ (timerTurn s).pwmOkL = s.pwmOkL ∧ (timerTurn s).pwmOkR = s.pwmOkR ∧
      (timerTurn s).responses = s.responses ∧ (timerTurn s).turns = s.turns ∧ (timerTurn s).host = s.host := by
  rcases timerTurn_cases s with ⟨-, h⟩ | ⟨dir, v, -, -, -, ⟨-, h⟩ | ⟨-, h⟩⟩ <;> rw [h]
  · simp
  · simp
  · cases dir
    · simp [rampEnd_toMute]
    · simp [rampEnd_toUnmute]

/-! ### The driver's commands -/

/-- What the driver hands on after RDST. -/
theorem ask_rdst (s : State) (k : Response → State → State) :
    ask .rdst k s = .next (k ⟨.ok, statusWord s⟩ (respond .ok (statusWord s) s)) :=
  ask_eq (command_legal (i := .rdst) (by decide) s) rfl k

/-- The status bits the driver looks at (10_state.md R18). -/
theorem statusWord_bits (s : State) :
    (statusWord s).getLsbD 9 = s.inited ∧ (statusWord s).getLsbD 8 = s.muted ∧
      ((statusWord s).extractLsb' 10 2 = 0#2 ↔ s.fsm = .idle) := by
  refine ⟨?_, ?_, ?_⟩
  · simp only [statusWord, BitVec.getLsbD_append]
    simp
  · simp only [statusWord, BitVec.getLsbD_append]
    simp
  · have h : (statusWord s).extractLsb' 10 2 = fsmCode s.fsm := by
      apply BitVec.eq_of_getLsbD_eq
      intro i hi
      simp only [statusWord, BitVec.getLsbD_extractLsb', BitVec.getLsbD_append]
      have hi' : i = 0 ∨ i = 1 := by omega
      rcases hi' with rfl | rfl <;> simp
    rw [h]
    cases s.fsm <;> simp [fsmCode]

end Sys2Proof.Machine
end

