-- ==== Sys2Proof/Tests/Slice0.lean ====
section
/-! SUPPORT. Tests of the model on single steps, with the expected values of 95_test_vectors.md, and for every statement of Certificates/Slice0/Obligations.lean that has hypotheses a concrete witness that meets them. -/

namespace Sys2Proof.Tests

open Sys2Proof.Machine

/-! ### States of the vectors -/

/-- The state before every row of 95_test_vectors.md section 2.9: CFG-A, initialised, unmuted, VOL = 180. -/
def ready : State :=
  { State.resetWith Params.cfgA with
    vol := 180#8, inited := true, muted := false, pwmL := some 19800#24, pwmR := some 19800#24 }

/-- CFG-A after INIT, before any UNMUTE. -/
def muted : State :=
  { ready with vol := 0#8, muted := true, pwmL := some 12800#24, pwmR := some 12800#24 }

/-- E3 of 95_test_vectors.md (CFG-F): a mute ramp from 180 after its first tick. -/
def muting : State :=
  { ready with cfg := Params.cfgF, vol := 135#8, startVol := 180#8, progress := 1#16, fsm := .rampingToMute,
               muted := true, timerRun := true }

/-- Program P1 after its step 9 (CFG-F): an unmute ramp after two ticks. -/
def unmuting : State :=
  { muting with vol := 90#8, startVol := 0#8, progress := 2#16, fsm := .rampingToUnmute, muted := false }

/-- The last step of the mute ramp of E3. -/
def lastMuteTick : State := { muting with vol := 45#8, progress := 3#16 }

/-- A configuration outside 00_scope.md R4. -/
def unbuilt : State := { ready with cfg := { Params.cfgA with stepCount := 0 } }

/-- The host with one task to do. -/
def withTask (t : HostTask) (s : State) : State := { s with host := { HostState.quiet with tasks := [t] } }

/-- The host inside a task. -/
def inPhase (p : HostPhase) (s : State) : State := { s with host := { HostState.quiet with phase := p } }

/-- What a step's next state shows. -/
def look {α : Type} (o : Host.Outcome State Fault Refusal) (f : State → α) : Option α :=
  match o with
  | .next t => some (f t)
  | .fault _ => none
  | .refused _ => none

/-! ### Well-formed commands and their words -/

/-- 30_encoding.md R45 item 5: index 8 is the first that does not exist. -/
theorem test_wellFormed_refuses_index_8 :
    (Instr.rdcfg 8#8).wellFormed = false ∧ decode (encode (.rdcfg 8#8)) = .error .cfgIndex ∧
      (Instr.rdcfg 7#8).wellFormed = true := by decide

/-- 95_test_vectors.md section 2.2, control and status commands. -/
theorem test_decode_control :
    decode 0b00000001000000000000000000000000#32 = .ok .init ∧
    decode 0b00000010000000000000000000000000#32 = .ok .rdst ∧
    decode 0b00000011000001110000000000000000#32 = .ok (.rdcfg 7#8) := by decide

/-- Section 2.2, conversion and emission commands. -/
theorem test_decode_conversion :
    decode 0b00010000101101000111111111111111#32 = .ok (.conv 180#8 32767#16) ∧
    decode 0b00010001000000001000000000000000#32 = .ok (.emitm 0x8000#16) ∧
    decode 0b00010010000000001111111111111110#32 = .ok (.emitl 0xFFFE#16) ∧
    decode 0b00010011000000000000000100000000#32 = .ok (.emitr 256#16) := by decide

/-- Section 2.2, ramp commands. -/
theorem test_decode_ramp :
    decode 0b00100000000000000000000000000000#32 = .ok .mute ∧
    decode 0b00100001000000000000000000000000#32 = .ok .unmute ∧
    decode 0b00100010000000000000000010110101#32 = .ok (.setvol 181#16) := by decide

/-- 30_encoding.md R45: a step answers an illegal word on the port, and goes on. -/
theorem test_step_answers_an_illegal_word :
    look (step { ready with turns := [.word 0x03080000#32, .tick] }) (fun t => (t.responses, t.turns)) =
      some ([⟨.errIllegal, 0#32⟩], [.tick]) := by decide

/-- 95_test_vectors.md section 2.3: illegal words of each case of R45. -/
theorem test_decode_illegal :
    decode 0x00000000#32 = .error .unassignedOpcode ∧ decode 0xFFFFFFFF#32 = .error .unassignedOpcode ∧
    decode 0x14000000#32 = .error .unassignedOpcode ∧ decode 0x02000100#32 = .error .formatZ ∧
    decode 0x21010000#32 = .error .formatZ ∧ decode 0x22010000#32 = .error .formatS ∧
    decode 0x03070001#32 = .error .formatX ∧ decode 0x03FF0000#32 = .error .cfgIndex := by decide

/-- 20_memory.md R31, R32: EMITM -2 over a byte-wide transport, and a delivery of three bytes. -/
theorem test_transport_bytes :
    decodeBytes [0xFE#8, 0xFF#8, 0x00#8, 0x11#8] = .ok (.emitm (-2#16)) ∧
    decodeBytes [0xFE#8, 0xFF#8, 0x00#8] = .error .notOneWord := by decide

/-- The host's own questions: a table word, and that word as the first thing the machine runs after reset. -/
theorem test_table_word_runs_first :
    decodeTableWord 32 0x03000000 = some (.rdcfg 0#8) ∧
    look (step (State.reset.withFetchWord 32 0x01000000)) (fun t => (t.inited, t.turns)) = some (true, []) := by
  decide

/-! ### INIT, RDST, RDCFG -/

/-- 95_test_vectors.md section 2.6, first row. -/
theorem test_init_writes_silence :
    look (exec .init State.reset) (fun t => (t.pwmL, t.pwmR, t.inited, t.responses)) =
      some (some 12800#24, some 12800#24, true, [⟨.ok, 0#32⟩]) := by decide

/-- Section 2.6, second and fourth rows: the bits of ERR_INIT's data, and no write. -/
theorem test_init_names_the_channels :
    look (exec .init { State.reset with pwmOkL := false }) (fun t => (t.pwmR, t.inited, t.responses)) =
      some (none, false, [⟨.errInit, 1#32⟩]) ∧
    look (exec .init { State.reset with pwmOkL := false, pwmOkR := false }) (fun t => t.responses) =
      some [⟨.errInit, 3#32⟩] := by decide

/-- Section 2.5: STATUS after reset, and of a mute ramp from 90 just started. -/
theorem test_rdst_status :
    look (exec .rdst State.reset) (fun t => t.responses) = some [⟨.ok, 0x00000100#32⟩] ∧
    look (exec .rdst { muting with vol := 90#8, progress := 0#16 }) (fun t => t.responses) =
      some [⟨.ok, 0x0000175A#32⟩] := by decide

/-- Section 2.5: CARRIER_HZ of CFG-A and SILENCE_NS of CFG-B. -/
theorem test_rdcfg_words :
    look (exec (.rdcfg 6#8) State.reset) (fun t => t.responses) = some [⟨.ok, 39062#32⟩] ∧
    look (exec (.rdcfg 7#8) (State.resetWith Params.cfgB)) (fun t => t.responses) = some [⟨.ok, 5000#32⟩] := by
  decide

/-! ### CONV, EMITM, EMITL, EMITR -/

/-- Vectors T6, T15 and T10: rows that tell truncation from flooring. -/
theorem test_conv_truncates :
    look (exec (.conv 180#8 (-1#16)) State.reset) (fun t => t.responses) = some [⟨.ok, 12800#32⟩] ∧
    look (exec (.conv 180#8 (-100#16)) State.reset) (fun t => t.responses) = some [⟨.ok, 5800#32⟩] ∧
    look (exec (.conv 1#8 (-255#16)) State.reset) (fun t => t.responses) = some [⟨.ok, 12800#32⟩] := by decide

/-- Vectors T19, T24 in CFG-A and T7 in CFG-B: clip, guard, and the floor of stage 4. -/
theorem test_conv_clips_and_guards :
    look (exec (.conv 180#8 183#16) State.reset) (fun t => t.responses) = some [⟨.ok, 25500#32⟩] ∧
    look (exec (.conv 180#8 0x8000#16) State.reset) (fun t => t.responses) = some [⟨.ok, 100#32⟩] ∧
    look (exec (.conv 180#8 2#16) (State.resetWith Params.cfgB)) (fun t => t.responses) =
      some [⟨.ok, 5039#32⟩] := by decide

/-- Section 2.9, first row. -/
theorem test_emitm_writes_both :
    look (exec (.emitm (-100#16)) ready) (fun t => (t.pwmL, t.pwmR, t.responses)) =
      some (some 5800#24, some 5800#24, [⟨.ok, 5800#32⟩]) := by decide

/-- Section 2.9, second and third rows. -/
theorem test_emitm_fails_midway :
    look (exec (.emitm (-100#16)) { ready with pwmOkR := false }) (fun t => (t.pwmL, t.pwmR, t.responses)) =
      some (some 5800#24, some 19800#24, [⟨.errHwWrite, 1#32⟩]) ∧
    look (exec (.emitm (-100#16)) { ready with pwmOkL := false }) (fun t => (t.pwmR, t.events, t.responses)) =
      some (some 19800#24, [.pwmWriteFailed .left], [⟨.errHwWrite, 0#32⟩]) := by decide

/-- Section 2.9, fifth and seventh rows. -/
theorem test_emitl_left_alone :
    look (exec (.emitl (-100#16)) { ready with pwmOkR := false }) (fun t => (t.pwmL, t.pwmR)) =
      some (some 5800#24, some 19800#24) ∧
    look (exec (.emitl (-100#16)) { ready with pwmOkL := false }) (fun t => (t.pwmL, t.responses)) =
      some (some 19800#24, [⟨.errHwWrite, 0#32⟩]) := by decide

/-- Section 2.9, sixth and last rows. -/
theorem test_emitr_right_alone :
    look (exec (.emitr (-100#16)) { ready with pwmOkL := false }) (fun t => (t.pwmL, t.pwmR)) =
      some (some 19800#24, some 5800#24) ∧
    look (exec (.emitr (-100#16)) { ready with pwmOkR := false }) (fun t => (t.pwmR, t.responses)) =
      some (some 19800#24, [⟨.errHwWrite, 1#32⟩]) := by decide

/-! ### MUTE, UNMUTE, SETVOL and the tick -/

/-- Section 2.8, first and eighth rows: a start, and a reversal that does not start the timer again. -/
theorem test_mute_starts_and_reverses :
    look (exec .mute ready) (fun t => (t.fsm, t.startVol, t.timerRun, t.events)) =
      some (.rampingToMute, 180#8, true, [.timerStart]) ∧
    look (exec .mute unmuting) (fun t => (t.fsm, t.progress, t.startVol, t.events)) =
      some (.rampingToMute, 0#16, 90#8, []) := by decide

/-- Section 2.8, fifth row: a second MUTE is a no-op. -/
theorem test_mute_twice_is_a_noop :
    look (exec .mute muting) (fun t => (t.fsm, t.progress, t.responses)) =
      some (.rampingToMute, 1#16, [⟨.ok, 0#32⟩]) := by decide

/-- Section 2.8, sixth and seventh rows. -/
theorem test_unmute_reverses_or_does_nothing :
    look (exec .unmute muting) (fun t => (t.fsm, t.vol, t.startVol, t.muted, t.responses)) =
      some (.rampingToUnmute, 135#8, 135#8, false, [⟨.ok, 1#32⟩]) ∧
    look (exec .unmute unmuting) (fun t => (t.progress, t.responses)) = some (2#16, [⟨.ok, 0#32⟩]) := by decide

/-- Vectors S6, S8, S10 and S12 of section 2.4. -/
theorem test_setvol_clamps :
    look (exec (.setvol 181#16) ready) (fun t => (t.vol, t.responses)) = some (180#8, [⟨.ok, 180#32⟩]) ∧
    look (exec (.setvol 256#16) ready) (fun t => t.vol) = some 180#8 ∧
    look (exec (.setvol (-1#16)) ready) (fun t => t.vol) = some 0#8 ∧
    look (exec (.setvol 0x8000#16) ready) (fun t => t.vol) = some 0#8 := by decide

/-- Vector S13: the gate. -/
theorem test_setvol_before_init :
    look (exec (.setvol 90#16) State.reset) (fun t => (t.vol, t.responses)) =
      some (0#8, [⟨.errNotReady, 0#32⟩]) := by decide

/-- Section 2.7: first volumes of a mute ramp from 135 and of one from 45, both in four steps. -/
theorem test_ramp_volumes_from_the_middle :
    (timerTurn { muting with startVol := 135#8, progress := 0#16 }).vol = 102#8 ∧
    (timerTurn { muting with startVol := 45#8, progress := 1#16 }).vol = 23#8 := by decide

/-- Program P5 step 14: the silence action with a failing left write. -/
theorem test_silence_action_with_a_failed_write :
    (timerTurn { lastMuteTick with pwmOkL := false }).events =
      [.timerStop, .silenceAction, .pwmWriteFailed .left, .pwmWritten .right 12800#24] ∧
    (timerTurn { lastMuteTick with pwmOkL := false }).pwmL = some 19800#24 ∧
    (timerTurn { lastMuteTick with pwmOkL := false }).fsm = .idle := by decide

/-- Program P6 step 9 (CFG-B): an unmute ramp that jumps from 90 to 9. -/
theorem test_unmute_jump :
    (timerTurn { unmuting with cfg := Params.cfgB, startVol := 90#8, progress := 0#16 }).vol = 9#8 := by decide

/-! ### Reset, configuration, the host -/

/-- 10_state.md R24 in the middle of a ramp. -/
theorem test_reset_in_a_ramp :
    look (step { muting with turns := [.reset] }) (fun t => (t.fsm, t.pwmL, t.muted, t.timerRun)) =
      some (.idle, none, true, false) := by decide

/-- 43_host_sequences.md R95: a play while muted returns Ok after RDST alone. -/
theorem test_play_while_muted :
    look (step (withTask (.playM [1#16]) muted)) (fun t => (t.host.results, t.responses.length)) =
      some ([.ok], 1) := by decide

/-- 43_host_sequences.md R98: a poll during a ramp goes on polling. -/
theorem test_rampwait_polls :
    look (step (inPhase (.polling false) { muting with turns := [.host] })) (fun t => t.host.phase) =
      some (.polling false) := by decide

/-- 70_reset_and_hazards.md R132: the host's program may gain tasks at any time. -/
theorem test_submit_adds_a_task :
    look (step { ready with turns := [.submit .rampWait] }) (fun t => t.host.tasks) = some [.rampWait] := by decide

/-- 43_host_sequences.md R97: EMITR of an EMITS fails after its EMITL has written. -/
theorem test_emits_keeps_the_left_write :
    look (step (inPhase (.emitRight 0#16) { ready with pwmOkR := false, pwmL := some 5800#24 }))
      (fun t => (t.pwmL, t.pwmR)) = some (some 5800#24, some 19800#24) := by decide

/-! ### Witnesses: the hypotheses of the statements are met -/

theorem witness_decodeOfEncode : (Instr.rdcfg 7#8).wellFormed = true ∧ (Instr.conv 255#8 0x8000#16).wellFormed = true := by
  decide

theorem witness_decodedWordReencodes :
    decode 0x03070000#32 = .ok (.rdcfg 7#8) ∧ decode 0x10FFFFFF#32 = .ok (.conv 255#8 0xFFFF#16) := by decide

/-- One word at the edge of each of the five cases, and a word of none. -/
theorem witness_illegalWord :
    IllegalWord 0x23000000#32 ∧ IllegalWord 0x01000001#32 ∧ IllegalWord 0x11010000#32 ∧ IllegalWord 0x03000001#32 ∧
      IllegalWord 0x03080000#32 ∧ ¬ IllegalWord 0x03070000#32 := by
  refine ⟨?_, ?_, ?_, ?_, ?_, ?_⟩ <;> simp only [IllegalWord] <;> decide

theorem witness_operandRange :
    sext16 (BitVec.ofInt 16 (-32768)) = -32768 ∧ sext16 (BitVec.ofInt 16 32767) = 32767 := by decide

theorem witness_bytesLength : ([0#8, 0#8, 0#8] : List Byte).length ≠ 4 ∧ ([] : List Byte).length ≠ 4 := by decide

theorem witness_stepRuns :
    legal ready.cfg ∧ { ready with turns := [.word 0x11000064#32] }.turns = [.word 0x11000064#32] ∧
      decode 0x11000064#32 = .ok (.emitm 100#16) := by decide

theorem witness_stepRuns_bytes :
    legal ready.cfg ∧
      { ready with turns := [.bytes [0x64#8, 0x00#8, 0x00#8, 0x11#8]] }.turns = [.bytes (bytesOfWord 0x11000064#32)] := by
  decide

/-- An illegal word on the port, whole and as bytes, and a delivery that is not one word. -/
theorem witness_stepRefuses :
    legal ready.cfg ∧ { ready with turns := [.word 0x03080000#32] }.turns = [.word 0x03080000#32] ∧
      { ready with turns := [.bytes [0x00#8, 0x00#8, 0x08#8, 0x03#8]] }.turns =
        [.bytes (bytesOfWord 0x03080000#32)] ∧
      decode 0x03080000#32 = .error .cfgIndex ∧
      { ready with turns := [.bytes [0x01#8]] }.turns = [.bytes [0x01#8]] ∧ [0x01#8].length ≠ 4 := by
  decide

/-- The clauses with a turn pending, and those with none: `muting` has its timer running, `ready` has not. -/
theorem witness_agentTurns :
    legal muting.cfg ∧ { muting with turns := [.tick] }.turns = [.tick] ∧
      { muting with turns := [.env false true] }.turns = [.env false true] ∧
      { muting with turns := [.host] }.turns = [.host] ∧
      { muting with turns := [.submit .rampWait] }.turns = [.submit .rampWait] ∧ muting.turns = [] ∧ muting.timerRun = true ∧
      legal ready.cfg ∧ ready.turns = [] ∧ ready.timerRun = false := by decide

/-- Configurations at both ends of the ranges of 00_scope.md R4, and one outside. -/
theorem witness_legal :
    ¬ legal unbuilt.cfg ∧ legal Params.cfgA ∧ legal Params.cfgB ∧ legal Params.cfgF ∧
      legal ⟨1, 1, 1, 256, 1, 1⟩ ∧ legal ⟨255, 65535, 2 ^ 32 - 1, 2 ^ 24 - 1, (2 ^ 24 - 1) / 2, 2 ^ 32 - 1⟩ :=
  ⟨by decide, by decide, by decide, by decide, by decide, by decide⟩

theorem witness_resetTurn : legal muting.cfg ∧ { muting with turns := [.reset] }.turns = [.reset] := by decide

theorem witness_noReset :
    (∃ t, step { muting with turns := [.tick] } = .next t) ∧
      { muting with turns := [.tick] }.turns.head? ≠ some .reset ∧ muting.inited = true ∧
      muting.pwmL.isSome = true ∧ muting.pwmR.isSome = true :=
  ⟨⟨_, rfl⟩, by decide⟩

theorem witness_invariantStep : Invariant lastMuteTick ∧ ∃ t, step lastMuteTick = .next t :=
  ⟨invariant_of_check (by decide), _, rfl⟩

theorem witness_reachable :
    legal Params.cfgF ∧
      ∃ t, run 2 { State.resetWith Params.cfgF with
        pwmOkL := true, pwmOkR := true, turns := [.word 0x01000000#32, .word 0x21000000#32], host := .quiet } = .next t :=
  ⟨by decide, _, rfl⟩

theorem witness_everyTurn :
    legal ready.cfg ∧ { ready with turns := [.word 0#32] }.turns = [.word 0#32] ∧ Turn.word 0#32 ≠ .host ∧
      muting.turns = [] ∧ muting.timerRun = true := by decide

/-- Operands at the ends of their ranges; products on each side of 0 and of both clip thresholds (T16 to T34). -/
theorem witness_scaleRange :
    (-32768 : Int) ≤ -32768 ∧ (-32768 : Int) ≤ 32767 ∧ (0 : Int) ≤ 0 ∧ (255 : Int) ≤ 255 ∧ (0 : Int) ≤ 100 * 180 ∧
      (-100 * 180 : Int) < 0 := by decide

theorem witness_clipThresholds :
    (32512 : Int) ≤ 32512 * 1 ∧ (-32768 * 1 : Int) ≤ -32768 ∧ (-33024 : Int) < 182 * 180 ∧ (182 * 180 : Int) < 32768 ∧
      (181 : Int) ≤ 181 ∧ (-183 : Int) ≤ -183 := by decide

/-- T22 and T20 with the reference margin, and 95_test_vectors.md section 2.1 with a margin of 1000 for the rails. -/
theorem witness_guardRails :
    legal Params.cfgA ∧ Params.cfgA.minMarginNs = Params.cfgA.periodNs / 256 ∧ unsignedCode (-183) 180 = 0 ∧
      unsignedCode (-181) 180 = 1 ∧ legal { Params.cfgA with minMarginNs := 1000 } ∧
      pulseNs { Params.cfgA with minMarginNs := 1000 } (-181) 180 = 100 ∧
      pulseNs { Params.cfgA with minMarginNs := 1000 } 32767 180 = 25500 ∧
      pulseNs { Params.cfgA with minMarginNs := 1000 } 100 180 = 19800 := by decide

theorem witness_conversionProperties :
    legal Params.cfgA ∧ (-256 : Int) < -255 * 1 ∧ (-255 * 1 : Int) < 256 ∧ (0 : Int) ≤ 180 ∧ (-183 : Int) ≤ 183 ∧
      clipped (-183) 180 = -128 ∧ clipped 183 180 = 127 := by decide

theorem witness_pwmInputs :
    ready.pwmOkL = true ∧ ready.pwmOkR = true ∧ { ready with pwmOkL := false }.pwmOkL = false ∧
      { ready with pwmOkR := false }.pwmOkR = false := by decide

theorem witness_convOpcode : (0x10FFFFFF#32 : Word).toNat / 2 ^ 24 = 0x10 := by decide

/-- The clauses of the emission and ramp commands: before INIT and after it, with each pair of inputs, and at VOL = 0. -/
theorem witness_emission :
    legal State.reset.cfg ∧ State.reset.inited = false ∧ legal ready.cfg ∧ ready.inited = true ∧
      ready.pwmOkL = true ∧ ready.pwmOkR = true ∧ { ready with pwmOkR := false }.pwmOkR = false ∧
      { ready with pwmOkL := false }.pwmOkL = false ∧ muted.inited = true ∧ muted.vol = 0#8 := by decide

theorem witness_emissionFrame : ∃ t, exec (.emitm 100#16) ready = .next t := ⟨_, rfl⟩

theorem witness_init :
    legal State.reset.cfg ∧ State.reset.inited = false ∧ BothReady State.reset ∧
      ¬ BothReady { State.reset with pwmOkR := false } ∧ ready.inited = true := by
  unfold BothReady
  decide

theorem witness_rdcfg :
    legal ready.cfg ∧ (7#8 : Byte).toNat ≤ 7 ∧ 7 < (8#8 : Byte).toNat ∧ (0x03080000#32 : Word).toNat / 2 ^ 24 = 0x03 ∧
      7 < (0x03080000#32 : Word).toNat / 2 ^ 16 % 2 ^ 8 ∧ (0x03000001#32 : Word).toNat % 2 ^ 16 ≠ 0 := by decide

theorem witness_gate :
    Gated (.emitm 0#16) = true ∧ State.reset.inited = false ∧ Gated .rdst = false ∧
      (∃ t, exec .rdst State.reset = .next t) ∧ (∃ t, step { ready with turns := [.word 0#32] } = .next t) ∧
      { ready with turns := [.word 0#32] }.turns.head? ≠ some .reset ∧ ready.inited = true :=
  ⟨rfl, rfl, rfl, ⟨_, rfl⟩, ⟨_, rfl⟩, by decide, rfl⟩

/-- MUTE and UNMUTE: before INIT, in the target state, and as a start. -/
theorem witness_requests :
    State.reset.inited = false ∧ muted.inited = true ∧ muted.muted = true ∧ ready.inited = true ∧
      ready.muted = false := by decide

theorem witness_setvol : legal State.reset.cfg ∧ State.reset.inited = false ∧ legal ready.cfg ∧ ready.inited = true := by
  decide

theorem witness_stateTable :
    Invariant unmuting ∧ unmuting.inited = true ∧ unmuting.muted = false ∧ Invariant muting ∧ muting.inited = true ∧
      muting.muted = true :=
  ⟨invariant_of_check (by decide), rfl, rfl, invariant_of_check (by decide), rfl, rfl⟩

/-- The ends of the ranges: the first step, the last step, and a starting volume of MAX_VOLUME. -/
theorem witness_rampVolume :
    legal Params.cfgF ∧ 180 ≤ Params.cfgF.maxVolume ∧ 1 ≤ 1 ∧ 1 < Params.cfgF.stepCount ∧ 1 ≤ 4 ∧
      4 ≤ Params.cfgF.stepCount := by decide

theorem witness_tick :
    State.reset.timerRun = false ∧ State.reset.fsm = .idle ∧ legal muting.cfg ∧ Invariant muting ∧
      muting.fsm ≠ .idle ∧ muting.progress.toNat + 1 < muting.cfg.stepCount ∧ legal unmuting.cfg ∧
      Invariant { unmuting with vol := 135#8, progress := 3#16 } ∧
      ({ unmuting with vol := 135#8, progress := 3#16 } : State).progress.toNat + 1 = unmuting.cfg.stepCount ∧
      unmuting.fsm = .rampingToUnmute ∧ Invariant lastMuteTick ∧ lastMuteTick.fsm = .rampingToMute ∧
      lastMuteTick.progress.toNat + 1 = lastMuteTick.cfg.stepCount :=
  ⟨rfl, rfl, by decide, invariant_of_check (by decide), by decide, by decide, by decide, invariant_of_check (by decide),
    by decide, rfl, invariant_of_check (by decide), rfl, by decide⟩

theorem witness_silence :
    (∃ t, step lastMuteTick = .next t) ∧ lastMuteTick.turns.head? ≠ some .reset ∧ CompletesMuteRamp lastMuteTick ∧
      (∃ t, step muting = .next t) ∧ muting.turns.head? ≠ some .reset ∧ ¬ CompletesMuteRamp muting := by
  refine ⟨⟨_, rfl⟩, by decide, ?_, ⟨_, rfl⟩, by decide, ?_⟩ <;> unfold CompletesMuteRamp <;> decide

/-- A ramp that runs alone, after its first tick and before its last. -/
theorem witness_runningRamp :
    legal muting.cfg ∧ Invariant muting ∧ muting.turns = [] ∧ muting.timerRun = true ∧
      2 < muting.cfg.stepCount - muting.progress.toNat :=
  ⟨by decide, invariant_of_check (by decide), rfl, rfl, by decide⟩

/-- E3 of 95_test_vectors.md: one MUTE, four ticks and a second MUTE among them. -/
def muteTurns : List Turn := [.tick, .word 0x20000000#32, .tick, .tick, .tick]

theorem witness_muteRamp :
    let s : State := { ready with cfg := Params.cfgF, turns := .word 0x20000000#32 :: muteTurns }
    legal s.cfg ∧ Invariant s ∧ s.inited = true ∧ s.fsm = .idle ∧ s.muted = false ∧
      s.turns = .word 0x20000000#32 :: muteTurns ∧
      (∀ x ∈ muteTurns, x = .tick ∨ x = .word 0x20000000#32) ∧ muteTurns.count .tick = s.cfg.stepCount :=
  ⟨by decide, invariant_of_check (by decide), rfl, rfl, rfl, rfl, by decide, by decide⟩

/-- The same with UNMUTE. -/
def unmuteTurns : List Turn := [.tick, .tick, .word 0x21000000#32, .tick, .tick]

theorem witness_unmuteRamp :
    let s : State := { muted with cfg := Params.cfgF, turns := .word 0x21000000#32 :: unmuteTurns }
    legal s.cfg ∧ Invariant s ∧ s.inited = true ∧ s.fsm = .idle ∧ s.muted = true ∧
      s.turns = .word 0x21000000#32 :: unmuteTurns ∧
      (∀ x ∈ unmuteTurns, x = .tick ∨ x = .word 0x21000000#32) ∧ unmuteTurns.count .tick = s.cfg.stepCount :=
  ⟨by decide, invariant_of_check (by decide), rfl, rfl, rfl, rfl, by decide, by decide⟩

/-- Section 2.8, sixth and eighth rows, each followed by a tick. -/
theorem witness_reversal :
    legal unmuting.cfg ∧ Invariant { unmuting with turns := [.word 0x20000000#32, .tick] } ∧
      unmuting.fsm = .rampingToUnmute ∧ legal muting.cfg ∧
      Invariant { muting with turns := [.word 0x21000000#32, .tick] } ∧ muting.fsm = .rampingToMute ∧
      1 < muting.cfg.stepCount :=
  ⟨by decide, invariant_of_check (by decide), rfl, by decide, invariant_of_check (by decide), rfl, by decide⟩

theorem witness_setvolInRamp : muting.inited = true ∧ muting.timerRun = true ∧ muting.fsm ≠ .idle := by decide

theorem witness_commandWrites : (∃ t, exec .mute ready = .next t) ∧ ∃ t, exec (.setvol 1#16) ready = .next t :=
  ⟨⟨_, rfl⟩, _, rfl⟩

/-- Each code of 60_exceptions.md R105 is answered to some word in some state. -/
theorem witness_codes :
    look (command 0x02000000#32 State.reset) (fun t => t.responses) = some [⟨.ok, 0x100#32⟩] ∧
    look (command 0x11010000#32 State.reset) (fun t => t.responses) = some [⟨.errIllegal, 0#32⟩] ∧
    look (command 0x11000000#32 State.reset) (fun t => t.responses) = some [⟨.errNotReady, 0#32⟩] ∧
    look (command 0x01000000#32 { State.reset with pwmOkR := false }) (fun t => t.responses) =
      some [⟨.errInit, 2#32⟩] ∧
    look (command 0x11000064#32 { ready with pwmOkR := false }) (fun t => t.responses) =
      some [⟨.errHwWrite, 1#32⟩] := by decide

/-- Finished with nothing listed, with new inputs to come, and with a reset to come; and not with a word to come. -/
theorem witness_finished :
    legal ready.cfg ∧ Finished ready ∧ Finished { ready with turns := [.env false true, .host, .tick] } ∧
      Finished { ready with turns := [.reset] } ∧ ¬ Finished { ready with turns := [.word 0#32] } ∧
      legal muting.cfg ∧ muting.turns = [] ∧ muting.timerRun = true ∧ Invariant muting := by
  refine ⟨by decide, ?_, ?_, ?_, ?_, by decide, rfl, rfl, invariant_of_check (by decide)⟩ <;> unfold Finished <;> decide

/-- The last step of a mute ramp, with a RAMPWAIT polling. -/
def waiting : State := inPhase (.polling false) lastMuteTick

/-- `waiting` once its ramp is over and the poll has seen it. -/
def waited : State :=
  { timerTurn waiting with host := { HostState.quiet with results := [.done] }, responses := [⟨.ok, 0x300#32⟩] }

/-- Ticks and moves of the host by turns, for ever. -/
def tickThenHost (n : Nat) : Turn := if n % 2 = 0 then .tick else .host

/-- The run of that schedule from `waiting`. -/
def waitingRun : Nat → State
  | 0 => waiting
  | 1 => timerTurn waiting
  | _ + 2 => waited

theorem waitingRun_infinite : InfiniteRun tickThenHost waitingRun
  | 0 => rfl
  | 1 => rfl
  | n + 2 => by
    unfold tickThenHost
    split
    · exact (rfl : stepWith .tick waited = .next waited)
    · exact (rfl : stepWith .host waited = .next waited)

/-- An infinite, fair run in which MUTED stays and the host keeps taking turns. -/
theorem witness_fairRun :
    legal (waitingRun 0).cfg ∧ Invariant (waitingRun 0) ∧ InfiniteRun tickThenHost waitingRun ∧
      Fair tickThenHost waitingRun ∧ (∀ m, 0 ≤ m → (waitingRun m).muted = (waitingRun 0).muted) ∧
      (waitingRun 0).host.phase = .polling false ∧ ∀ k, ∃ m, k ≤ m ∧ tickThenHost m = .host := by
  refine ⟨by decide, invariant_of_check (by decide), waitingRun_infinite, fun n => ⟨2 * n, by omega, .inr ?_⟩, ?_, rfl,
    fun k => ⟨2 * k + 1, by omega, ?_⟩⟩
  · exact if_pos (by omega)
  · rintro (_ | _ | m) - <;> rfl
  · exact if_neg (by omega)

theorem witness_alternating :
    legal unmuting.cfg ∧ Invariant unmuting ∧ unmuting.fsm = .rampingToUnmute ∧ 1 < unmuting.cfg.stepCount :=
  ⟨by decide, invariant_of_check (by decide), rfl, by decide⟩

/-- The three emissions after a tick, with every write accepted and with none. -/
theorem witness_tickThenEmission :
    let s (w : Word) : State := { unmuting with turns := [.tick, .word w] }
    (∀ w, legal (s w).cfg ∧ (s w).timerRun = true ∧ (s w).turns = [.tick, .word w] ∧ (s w).pwmOkL = true ∧
      (s w).pwmOkR = true) ∧
      Invariant (s 0x11000064#32) ∧ decode 0x11000064#32 = .ok (.emitm 100#16) ∧
      Invariant (s 0x12000064#32) ∧ decode 0x12000064#32 = .ok (.emitl 100#16) ∧
      Invariant (s 0x13000064#32) ∧ decode 0x13000064#32 = .ok (.emitr 100#16) ∧
      Invariant { s 0x11000064#32 with pwmOkL := false, pwmOkR := false } :=
  ⟨fun _ => ⟨(by decide : legal unmuting.cfg), rfl, rfl, rfl, rfl⟩, invariant_of_check (by decide), by decide, invariant_of_check (by decide),
    by decide, invariant_of_check (by decide), by decide, invariant_of_check (by decide)⟩

/-- Turns that put ticks and a MUTE between the samples of a play of two samples. -/
def playTurns : List Turn := [.tick, .host, .word 0x20000000#32, .tick, .host]

/-- The first clause's state has its timer stopped and no turn listed, the second's has a ramp running. -/
theorem witness_playMono :
    let s := withTask (.playM [100#16, 0#16]) ready
    let r := { withTask (.playM [100#16, 0#16]) unmuting with turns := .host :: playTurns }
    (legal s.cfg ∧ s.inited = true ∧ s.muted = false ∧ BothReady s ∧ s.timerRun = false ∧ s.turns = [] ∧
      s.host.phase = .idle ∧ s.host.tasks = [.playM [100#16, 0#16]] ∧ [100#16, 0#16].getLast? = some 0#16) ∧
      legal r.cfg ∧ r.inited = true ∧ r.muted = false ∧ BothReady r ∧ r.timerRun = true ∧ r.host.phase = .idle ∧
      r.host.tasks = [.playM [100#16, 0#16]] ∧ r.turns = .host :: playTurns := by
  unfold BothReady
  decide

/-- The turns of both plays are of the kinds the statements admit. -/
theorem witness_playTurns :
    (∀ x ∈ playTurns, x = .host ∨ x = .tick ∨ ∃ w, x = .word w) ∧ playTurns.count .host = [100#16, 0#16].length ∧
      playTurns.count .host = 2 * [(1#16, 2#16)].length ∧
      playTurns = [.tick, .host, .word 0x20000000#32, .tick] ++ .host :: [] := by
  refine ⟨fun x hx => ?_, by decide, by decide, rfl⟩
  simp only [playTurns, List.mem_cons, List.not_mem_nil, or_false] at hx
  rcases hx with rfl | rfl | rfl | rfl | rfl <;> simp

theorem witness_playStereo :
    let s := withTask (.playS ([(1#16, 2#16), (3#16, 4#16)].flatMap fun f => [f.1, f.2])) ready
    let r := { withTask (.playS ([(1#16, 2#16)].flatMap fun f => [f.1, f.2])) unmuting with turns := .host :: playTurns }
    (legal s.cfg ∧ s.inited = true ∧ s.muted = false ∧ BothReady s ∧ s.timerRun = false ∧ s.turns = [] ∧
      s.host.phase = .idle ∧ s.host.tasks = [.playS [1#16, 2#16, 3#16, 4#16]]) ∧
      (legal r.cfg ∧ r.inited = true ∧ r.muted = false ∧ BothReady r ∧ r.timerRun = true ∧ r.host.phase = .idle ∧
      r.host.tasks = [.playS [1#16, 2#16]] ∧ r.turns = .host :: playTurns) ∧
      (withTask (.playS [1#16]) ready).host.tasks = [.playS [1#16]] ∧ [1#16].length % 2 = 1 := by
  unfold BothReady
  decide

theorem witness_playChecks :
    let s := withTask (.playM [1#16]) muted
    let r := withTask (.playS [1#16, 2#16]) State.reset
    s.host.phase = .idle ∧ s.host.tasks = [.playM [1#16]] ∧ s.inited = true ∧ s.muted = true ∧
      r.host.phase = .idle ∧ r.host.tasks = [.playS [1#16, 2#16]] ∧ [1#16, 2#16].length % 2 = 0 ∧
      r.inited = false := by decide

theorem witness_writeFailure :
    let s := { ready with pwmOkL := false, pwmOkR := false }
    s.inited = true ∧ ¬ BothReady s ∧ s.pwmOkL = false ∧ s.pwmOkR = false ∧
      (inPhase (.playMono [1#16]) s).host.phase = .playMono [1#16] ∧
      (inPhase (.playStereo [1#16, 2#16]) s).host.phase = .playStereo [1#16, 2#16] ∧
      (inPhase (.playStereoRight 2#16 []) s).host.phase = .playStereoRight 2#16 [] := by
  unfold BothReady
  decide

theorem witness_emits :
    let s := withTask (.emits 1#16 2#16) ready
    legal s.cfg ∧ s.inited = true ∧ s.timerRun = false ∧ s.turns = [] ∧ s.host.phase = .idle ∧
      s.host.tasks = [.emits 1#16 2#16] ∧ BothReady s ∧ { s with pwmOkL := false }.pwmOkL = false ∧
      { s with pwmOkR := false }.pwmOkL = true ∧ { s with pwmOkR := false }.pwmOkR = false := by
  unfold BothReady
  decide

/-- Ticks, a MUTE and new inputs between EMITL and EMITR, in a ramp; and EMITS before INIT, with turns listed and with none. -/
theorem witness_emitsBetween :
    let l₁ : List Turn := [.tick, .word 0x20000000#32, .env true false]
    let s := { withTask (.emits 1#16 2#16) unmuting with turns := Turn.host :: (l₁ ++ [Turn.host]) }
    let r := withTask (.emits 1#16 2#16) State.reset
    (legal s.cfg ∧ s.host.phase = .idle ∧ s.host.tasks = [.emits 1#16 2#16] ∧ s.inited = true ∧ s.timerRun = true ∧
      s.turns = .host :: (l₁ ++ [.host]) ∧ s.pwmOkL = true ∧ { s with pwmOkL := false }.pwmOkL = false) ∧
      (∀ x ∈ l₁, x = .tick ∨ (∃ w, x = .word w) ∨ ∃ okL okR, x = .env okL okR) ∧
      legal r.cfg ∧ r.host.phase = .idle ∧ r.host.tasks = [.emits 1#16 2#16] ∧ r.inited = false ∧ r.turns = [] ∧
      r.timerRun = false ∧ { r with turns := [.host, .host] }.turns = [.host, .host] := by
  refine ⟨by decide, fun x hx => ?_, by decide⟩
  simp only [List.mem_cons, List.not_mem_nil, or_false] at hx
  rcases hx with rfl | rfl | rfl
  · exact .inl rfl
  · exact .inr (.inl ⟨_, rfl⟩)
  · exact .inr (.inr ⟨_, _, rfl⟩)

/-- A wait not yet begun and one that polls, in a ramp; and one that finds the controller in Idle. -/
theorem witness_rampwait :
    let r := withTask .rampWait muting
    let s := inPhase (.polling true) muting
    (legal r.cfg ∧ Invariant r ∧ r.turns = [] ∧ r.timerRun = true ∧ r.host.phase = .idle ∧
      r.host.tasks = [.rampWait] ∧ r.fsm ≠ .idle) ∧
      (legal s.cfg ∧ Invariant s ∧ s.turns = [] ∧ s.timerRun = true ∧ s.host.phase = .polling true ∧ s.fsm ≠ .idle) ∧
      (withTask .rampWait ready).host.tasks = [.rampWait] ∧ (withTask .rampWait ready).fsm = .idle ∧
      (inPhase (.polling true) ready).host.phase = .polling true ∧ (inPhase (.polling true) ready).fsm = .idle :=
  ⟨⟨by decide, invariant_of_check (by decide), rfl, rfl, rfl, rfl, by decide⟩,
    ⟨by decide, invariant_of_check (by decide), rfl, rfl, rfl, by decide⟩, rfl, rfl, rfl, rfl⟩

/-- BRINGUP's first step enables the amplifier; SHUTDOWN's first begins its wait, and the last poll disables it. -/
theorem witness_amplifier :
    look (step (withTask .bringup State.reset)) (fun t => t.host.ampOn) = some true ∧
      (withTask .bringup State.reset).host.ampOn = false ∧ (withTask .bringup State.reset).inited = false ∧
      look (step { muted with host := { HostState.quiet with phase := .polling true, ampOn := true } })
        (fun t => t.host.ampOn) = some false ∧
      look (step (withTask .shutdown ready)) (fun t => t.host.phase) = some (.polling true) ∧
      (withTask .shutdown ready).host.phase ≠ .polling true ∧ (withTask .shutdown ready).inited = true := by decide

theorem witness_bringup :
    let s := withTask .bringup State.reset
    legal s.cfg ∧ Invariant s ∧ s.turns = [] ∧ s.timerRun = false ∧ s.host.phase = .idle ∧
      s.host.tasks = [.bringup] ∧ s.inited = false ∧ BothReady s ∧ ¬ BothReady { s with pwmOkL := false } :=
  ⟨by decide, invariant_of_check (by decide), rfl, rfl, rfl, rfl, rfl, ⟨rfl, rfl⟩, fun h => by cases h.1⟩

/-- BRINGUP of a device that is initialised already, muted and unmuted. -/
theorem witness_bringupAgain :
    let s := withTask .bringup muted
    let r := withTask .bringup ready
    (legal s.cfg ∧ Invariant s ∧ s.turns = [] ∧ s.timerRun = false ∧ s.host.phase = .idle ∧
      s.host.tasks = [.bringup] ∧ s.inited = true ∧ s.muted = true) ∧
      legal r.cfg ∧ Invariant r ∧ r.turns = [] ∧ r.timerRun = false ∧ r.host.phase = .idle ∧
      r.host.tasks = [.bringup] ∧ r.inited = true ∧ r.muted = false :=
  ⟨⟨by decide, invariant_of_check (by decide), rfl, rfl, rfl, rfl, rfl, rfl⟩, by decide,
    invariant_of_check (by decide), rfl, rfl, rfl, rfl, rfl, rfl⟩

/-- SHUTDOWN of an unmuted device and of a muted one. -/
theorem witness_shutdown :
    let s := withTask .shutdown ready
    let r := withTask .shutdown muted
    (legal s.cfg ∧ Invariant s ∧ s.turns = [] ∧ s.timerRun = false ∧ s.host.phase = .idle ∧
      s.host.tasks = [.shutdown] ∧ s.inited = true ∧ s.muted = false) ∧
      legal r.cfg ∧ Invariant r ∧ r.turns = [] ∧ r.timerRun = false ∧ r.host.phase = .idle ∧
      r.host.tasks = [.shutdown] ∧ r.muted = true :=
  ⟨⟨by decide, invariant_of_check (by decide), rfl, rfl, rfl, rfl, rfl, rfl⟩, by decide,
    invariant_of_check (by decide), rfl, rfl, rfl, rfl, rfl⟩

/-- BRINGUP and SHUTDOWN begun in a running ramp of either direction. -/
theorem witness_sequencesInARamp :
    let b (s : State) : State := { withTask .bringup s with turns := [.host, .host] }
    let h (s : State) : State := { withTask .shutdown s with turns := [.host] }
    (∀ s ∈ [muting, unmuting], legal (b s).cfg ∧ (b s).timerRun = true ∧ (b s).host.phase = .idle ∧
      (b s).turns = [.host, .host] ∧ (b s).host.tasks = [.bringup] ∧ legal (h s).cfg ∧ (h s).timerRun = true ∧
      (h s).host.phase = .idle ∧ (h s).turns = [.host] ∧ (h s).host.tasks = [.shutdown]) ∧
      Invariant (b muting) ∧ Invariant (b unmuting) ∧ Invariant (h muting) ∧ Invariant (h unmuting) ∧
      muting.fsm = .rampingToMute ∧ unmuting.fsm = .rampingToUnmute :=
  ⟨by decide, invariant_of_check (by decide), invariant_of_check (by decide), invariant_of_check (by decide),
    invariant_of_check (by decide), rfl, rfl⟩

end Sys2Proof.Tests
end

/-! ### What no command writes (00_scope.md R3, 10_state.md R10): the parameters, the inputs, the pending turns, the host -/

namespace Sys2Proof.Machine

/-- The second state has the first one's parameters, inputs, pending turns and host: what is no item of 10_state.md R10
and no output of the block. -/
structure SameSurroundings (s t : State) : Prop where
  cfg : t.cfg = s.cfg
  pwmOkL : t.pwmOkL = s.pwmOkL
  pwmOkR : t.pwmOkR = s.pwmOkR
  turns : t.turns = s.turns
  host : t.host = s.host

theorem SameSurroundings.refl (s : State) : SameSurroundings s s := ⟨rfl, rfl, rfl, rfl, rfl⟩

theorem SameSurroundings.trans {s t u : State} (h : SameSurroundings s t) (h' : SameSurroundings t u) :
    SameSurroundings s u :=
  ⟨h'.cfg.trans h.cfg, h'.pwmOkL.trans h.pwmOkL, h'.pwmOkR.trans h.pwmOkR, h'.turns.trans h.turns,
    h'.host.trans h.host⟩

theorem respond_sameSurroundings (code : Code) (data : Word) (s : State) :
    SameSurroundings s (respond code data s) := ⟨rfl, rfl, rfl, rfl, rfl⟩

theorem pwmWrite_sameSurroundings (ch : Channel) (p : Pulse) (s : State) :
    SameSurroundings s (pwmWrite ch p s) := by
  cases ch with
  | left => rw [pwmWrite_left]; exact ⟨rfl, rfl, rfl, rfl, rfl⟩
  | right => rw [pwmWrite_right]; exact ⟨rfl, rfl, rfl, rfl, rfl⟩

theorem emitChannel_sameSurroundings (ch : Channel) (p : Pulse) (s : State) :
    SameSurroundings s (emitChannel ch p s) := by
  have written := pwmWrite_sameSurroundings ch p s
  unfold emitChannel
  split <;> exact written.trans (respond_sameSurroundings _ _ _)

theorem emitBoth_sameSurroundings (p : Pulse) (s : State) : SameSurroundings s (emitBoth p s) := by
  have written := pwmWrite_sameSurroundings .left p s
  unfold emitBoth
  split
  · exact written.trans (emitChannel_sameSurroundings _ _ _)
  · exact written.trans (respond_sameSurroundings _ _ _)

theorem rampStart_sameSurroundings (dir : Dir) (s : State) : SameSurroundings s (rampStart dir s) := by
  unfold rampStart startTimer
  split <;> exact ⟨rfl, rfl, rfl, rfl, rfl⟩

theorem rampRequest_sameSurroundings (dir : Dir) (s : State) : SameSurroundings s (rampRequest dir s) := by
  unfold rampRequest
  split
  · exact respond_sameSurroundings _ _ _
  · exact (rampStart_sameSurroundings dir s).trans (respond_sameSurroundings _ _ _)

theorem initDevice_sameSurroundings (s : State) : SameSurroundings s (initDevice s) := by
  unfold initDevice
  split
  · have written := (pwmWrite_sameSurroundings .left (silencePulse s.cfg) s).trans
      (pwmWrite_sameSurroundings .right (silencePulse s.cfg) _)
    exact written.trans ⟨rfl, rfl, rfl, rfl, rfl⟩
  · exact respond_sameSurroundings _ _ _

theorem gated_sameSurroundings {body : State → State} {s : State} (h : SameSurroundings s (body s)) :
    SameSurroundings s (gated body s) := by
  unfold gated
  split
  · exact h
  · exact respond_sameSurroundings _ _ _

/-- No command writes the parameters, the inputs, the pending turns or the host. -/
theorem exec_sameSurroundings {i : Instr} {s t : State} (h : exec i s = .next t) : SameSurroundings s t := by
  cases i with
  | init =>
    cases h
    split
    · exact respond_sameSurroundings _ _ _
    · exact initDevice_sameSurroundings s
  | rdst => cases h; exact respond_sameSurroundings _ _ _
  | rdcfg idx =>
    cases h
    split <;> exact respond_sameSurroundings _ _ _
  | conv vol8 imm16 => cases h; exact respond_sameSurroundings _ _ _
  | emitm imm16 => cases h; exact gated_sameSurroundings (emitBoth_sameSurroundings _ s)
  | emitl imm16 => cases h; exact gated_sameSurroundings (emitChannel_sameSurroundings _ _ s)
  | emitr imm16 => cases h; exact gated_sameSurroundings (emitChannel_sameSurroundings _ _ s)
  | mute => cases h; exact gated_sameSurroundings (rampRequest_sameSurroundings _ s)
  | unmute => cases h; exact gated_sameSurroundings (rampRequest_sameSurroundings _ s)
  | setvol imm16 => cases h; exact gated_sameSurroundings ⟨rfl, rfl, rfl, rfl, rfl⟩

/-- No word on the port does so either, legal or not. -/
theorem command_sameSurroundings {w : Word} {s t : State} (h : command w s = .next t) : SameSurroundings s t := by
  unfold command at h
  split at h
  · exact exec_sameSurroundings h
  · cases h
    exact respond_sameSurroundings _ _ _

/-! ### The parameters along a run (00_scope.md R3) -/

/-- A turn of the host moves the host and, through one command, the block: neither writes the parameters. -/
theorem HostMove.cfg_eq {s t : State} (h : HostMove s t) : t.cfg = s.cfg :=
  h.elim (P := fun u => u.cfg = s.cfg) (fun _ => rfl) (fun _ _ _ _ hu => (command_sameSurroundings hu).cfg)

/-- No step, of whatever agent, writes the parameters. -/
theorem step_cfg {s t : State} (h : step s = .next t) : t.cfg = s.cfg := by
  obtain ⟨-, ts, hword | rfl | hhost | ⟨-, rfl⟩ | ⟨l, r, rfl⟩ | ⟨-, rfl⟩⟩ := step_cases h
  · obtain ⟨w, hw⟩ := hword
    exact (command_sameSurroundings hw).cfg
  · rfl
  · exact hhost.cfg_eq
  · exact (timerTurn_frame _).1
  · rfl
  · rfl

/-! ### The turn a step takes (00_scope.md R8) -/

/-- A step takes the first turn listed, with that turn off the list. -/
theorem step_turn {s : State} {x : Turn} {ts : List Turn} (hc : legal s.cfg) (h : s.turns = x :: ts) :
    step s = takeTurn x { s with turns := ts } := by
  rw [step_of_legal hc]
  simp [runTurn, h]

/-- Any other number of bytes than four is no word (20_memory.md R32). -/
theorem wordOfBytes_eq_none {bs : List Byte} (h : bs.length ≠ 4) : wordOfBytes bs = none := by
  unfold wordOfBytes
  split
  · exact absurd rfl h
  · rfl

/-- Of a delivery that is not four bytes the block sees nothing (20_memory.md R32, log entry 9). -/
theorem deliver_partial {bs : List Byte} (h : bs.length ≠ 4) (s : State) : deliver bs s = .next s := by
  simp [deliver, wordOfBytes_eq_none h]

/-- The four bytes of a word are the word (20_memory.md R31). -/
theorem deliver_bytesOfWord (w : Word) (s : State) : deliver (bytesOfWord w) s = command w s := by
  simp [deliver, wordOfBytes_bytesOfWord]

/-- A word presented next, whole or as its four bytes, is put to the port. -/
theorem step_presented {s : State} {w : Word} {ts : List Turn} (hc : legal s.cfg)
    (h : s.turns = .word w :: ts ∨ s.turns = .bytes (bytesOfWord w) :: ts) :
    step s = command w { s with turns := ts } := by
  rcases h with h | h
  · exact step_word hc h
  · exact (step_turn hc h).trans (deliver_bytesOfWord w _)

/-! ### Building a configuration (00_scope.md R4, 93_implementation_defined.md V8) -/

theorem build_legal {c : Params} (h : legal c) : build c = some (State.resetWith c) := if_pos h

theorem build_illegal {c : Params} (h : ¬ legal c) : build c = none := if_neg h

theorem step_illegal {s : State} (h : ¬ legal s.cfg) : step s = .refused .illegalConfiguration := if_neg h

/-! ### The obligations -/

/-- Settles O17, by induction on the number of steps. -/
theorem noStepChangesTheParameters : Obligations.NoStepChangesTheParameters := by
  intro k
  induction k with
  | zero =>
    intro s t h
    cases h
    rfl
  | succ k ih =>
    intro s t h
    obtain ⟨u, hu, hk⟩ := run_succ_inv h
    exact (ih u t hk).trans (step_cfg hu)

/-- Settles O9: a word presented either way goes to the port, which decodes it. -/
theorem stepRunsTheDecodedCommand : Obligations.StepRunsTheDecodedCommand := by
  intro s ts hc
  refine ⟨fun w h => step_word hc h, fun bs h => ⟨step_turn hc h, fun hlen => ?_⟩, fun w h => ⟨?_, ?_⟩⟩
  · exact (step_turn hc h).trans (deliver_partial hlen _)
  · intro i hi
    exact (step_presented hc h).trans (command_legal hi _)
  · intro e he
    exact (step_presented hc h).trans (command_illegal he _)

/-- Settles O10: the turn listed is the one taken; with none listed the running timer goes before the host. -/
theorem stepGivesEachAgentItsTurn : Obligations.StepGivesEachAgentItsTurn := by
  intro s ts hc
  exact ⟨step_tick hc, fun _ _ h => step_turn hc h, fun h => step_turn hc h, fun _ h => step_turn hc h,
    step_timer hc, step_host hc⟩

/-- Settles O11: `step` and `build` both test the legal ranges first. -/
theorem illegalConfigurationIsRefused : Obligations.IllegalConfigurationIsRefused :=
  fun _ => ⟨fun h => ⟨step_illegal h, build_illegal h⟩, build_legal⟩

end Sys2Proof.Machine

/-! ### Everything a command can do (10_state.md R11 to R16), said once for all ten -/

namespace Sys2Proof.Machine

/-- What EMITL leaves once it is past the gate (40_convert.md R70). -/
theorem emitChannel_left (p : Pulse) (s : State) :
    emitChannel .left p s = { s with
      pwmL := if s.pwmOkL then some p else s.pwmL
      events := s.events ++ [if s.pwmOkL then .pwmWritten .left p else .pwmWriteFailed .left]
      responses := s.responses ++ [if s.pwmOkL then ⟨.ok, pulseData p⟩ else ⟨.errHwWrite, 0#32⟩] } := by
  cases h : s.pwmOkL <;> simp [emitChannel, pwmWrite_left, h, respond, channelIndex]

/-- What EMITR leaves once it is past the gate (40_convert.md R71). -/
theorem emitChannel_right (p : Pulse) (s : State) :
    emitChannel .right p s = { s with
      pwmR := if s.pwmOkR then some p else s.pwmR
      events := s.events ++ [if s.pwmOkR then .pwmWritten .right p else .pwmWriteFailed .right]
      responses := s.responses ++ [if s.pwmOkR then ⟨.ok, pulseData p⟩ else ⟨.errHwWrite, 1#32⟩] } := by
  cases h : s.pwmOkR <;> simp [emitChannel, pwmWrite_right, h, respond, channelIndex]

/-- What EMITM leaves once the left write was accepted (40_convert.md R69). -/
theorem emitBoth_leftAccepted {s : State} (h : s.pwmOkL = true) (p : Pulse) :
    emitBoth p s = { s with
      pwmL := some p
      pwmR := if s.pwmOkR then some p else s.pwmR
      events := s.events ++
        [.pwmWritten .left p, if s.pwmOkR then .pwmWritten .right p else .pwmWriteFailed .right]
      responses := s.responses ++ [if s.pwmOkR then ⟨.ok, pulseData p⟩ else ⟨.errHwWrite, 1#32⟩] } := by
  simp [emitBoth, h, pwmWrite_left, emitChannel_right]

/-- What EMITM leaves once the left write was refused: the right channel is not tried (40_convert.md R69). -/
theorem emitBoth_leftRefused {s : State} (h : s.pwmOkL = false) (p : Pulse) :
    emitBoth p s = { s with
      events := s.events ++ [.pwmWriteFailed .left]
      responses := s.responses ++ [⟨.errHwWrite, 0#32⟩] } := by
  simp [emitBoth, h, pwmWrite_left, respond, channelIndex]

/-- What a ramp start leaves: the timer's event only when the timer did not run (41_ramp.md R75). -/
theorem rampStart_eq (dir : Dir) (s : State) :
    rampStart dir s = { s with
      startVol := s.vol, progress := 0#16, muted := dirMuted dir, fsm := dirFsm dir, timerRun := true
      events := s.events ++ if s.timerRun then [] else [.timerStart] } := by
  cases h : s.timerRun <;> simp [rampStart, startTimer, h, emit]

/-- What an INIT that succeeds leaves (42_control.md R85). -/
theorem initDevice_ready {s : State} (hl : s.pwmOkL = true) (hr : s.pwmOkR = true) :
    initDevice s = { s with
      pwmL := some (silencePulse s.cfg), pwmR := some (silencePulse s.cfg), inited := true
      events := s.events ++ [.pwmWritten .left (silencePulse s.cfg), .pwmWritten .right (silencePulse s.cfg)]
      responses := s.responses ++ [⟨.ok, 0#32⟩] } := by
  simp [initDevice, hl, hr, pwmWrite_left, pwmWrite_right, respond]

/-- The command that requests a ramp of this direction (41_ramp.md R73, R74). -/
def dirCommand : Dir → Instr
  | .toMute => .mute
  | .toUnmute => .unmute

/-- The states that a command can lead to: answered and nothing else, or one of the four changes the ten commands make,
each with the guards under which it is made. -/
inductive CommandEffect (i : Instr) (s : State) : State → Prop
  /-- Every command may only answer; RDST, RDCFG and CONV always do. -/
  | answered (r : Response) : CommandEffect i s { s with responses := s.responses ++ [r] }
  /-- INIT succeeds (42_control.md R85). -/
  | inited (es : List Event) (r : Response) :
      i = .init → s.inited = false → BothReady s →
      CommandEffect i s { s with
        pwmL := some (silencePulse s.cfg), pwmR := some (silencePulse s.cfg), inited := true
        events := s.events ++ es, responses := s.responses ++ [r] }
  /-- An emission writes the channels it names, or those of them that accept (40_convert.md R69 to R71). -/
  | emitted (imm : Imm16) (pl pr : Option Pulse) (es : List Event) (r : Response) :
      s.inited = true →
      (pl = s.pwmL ∨ pl = some (convertPulse s.cfg imm s.vol) ∧ (i = .emitm imm ∨ i = .emitl imm)) →
      (pr = s.pwmR ∨ pr = some (convertPulse s.cfg imm s.vol) ∧ (i = .emitm imm ∨ i = .emitr imm)) →
      CommandEffect i s { s with
        pwmL := pl, pwmR := pr, events := s.events ++ es, responses := s.responses ++ [r] }
  /-- MUTE or UNMUTE starts a ramp, or turns one round (41_ramp.md R75). -/
  | ramped (dir : Dir) :
      i = dirCommand dir → s.inited = true → s.muted ≠ dirMuted dir →
      CommandEffect i s (respond .ok 1#32 (rampStart dir s))
  /-- SETVOL stores the clamped request (41_ramp.md R76). -/
  | volumeSet (imm : Imm16) (r : Response) :
      i = .setvol imm → s.inited = true →
      CommandEffect i s { s with vol := setvolValue s.cfg imm, responses := s.responses ++ [r] }

/-- The gate: behind it the body's effect, in front of it an answer (42_control.md R87). -/
theorem gated_effect {i : Instr} {s : State} {body : State → State}
    (h : s.inited = true → CommandEffect i s (body s)) : CommandEffect i s (gated body s) := by
  cases hi : s.inited with
  | true => rw [gated_ready hi]; exact h hi
  | false => rw [gated_notReady hi]; exact .answered _

theorem execInit_effect (s : State) :
    CommandEffect .init s (if s.inited then respond .ok 0#32 s else initDevice s) := by
  cases hi : s.inited with
  | true => exact .answered _
  | false =>
    by_cases hb : s.pwmOkL = true ∧ s.pwmOkR = true
    · rw [if_neg (by simp), initDevice_ready hb.1 hb.2]
      exact .inited _ _ rfl hi hb
    · rw [if_neg (by simp), initDevice, if_neg (by simpa using hb)]
      exact .answered _

/-- A register after a write that its channel may refuse: as it was, or written by a command that names the channel. -/
theorem register_after_attempt {p : Pulse} {named : Prop} (ok : Bool) (old : Option Pulse) (h : named) :
    (if ok then some p else old) = old ∨ (if ok then some p else old) = some p ∧ named := by
  cases ok with
  | true => exact .inr ⟨rfl, h⟩
  | false => exact .inl rfl

theorem emitBoth_effect {imm : Imm16} {s : State} (hi : s.inited = true) :
    CommandEffect (.emitm imm) s (emitBoth (convertPulse s.cfg imm s.vol) s) := by
  cases hl : s.pwmOkL with
  | true =>
    rw [emitBoth_leftAccepted hl]
    exact .emitted imm _ _ _ _ hi (.inr ⟨rfl, .inl rfl⟩) (register_after_attempt _ _ (.inl rfl))
  | false =>
    rw [emitBoth_leftRefused hl]
    exact .emitted imm _ _ _ _ hi (.inl rfl) (.inl rfl)

theorem emitLeft_effect {imm : Imm16} {s : State} (hi : s.inited = true) :
    CommandEffect (.emitl imm) s (emitChannel .left (convertPulse s.cfg imm s.vol) s) := by
  rw [emitChannel_left]
  exact .emitted imm _ _ _ _ hi (register_after_attempt _ _ (.inr rfl)) (.inl rfl)

theorem emitRight_effect {imm : Imm16} {s : State} (hi : s.inited = true) :
    CommandEffect (.emitr imm) s (emitChannel .right (convertPulse s.cfg imm s.vol) s) := by
  rw [emitChannel_right]
  exact .emitted imm _ _ _ _ hi (.inl rfl) (register_after_attempt _ _ (.inr rfl))

theorem rampRequest_effect {dir : Dir} {s : State} (hi : s.inited = true) :
    CommandEffect (dirCommand dir) s (rampRequest dir s) := by
  unfold rampRequest
  split
  case isTrue => exact .answered _
  case isFalse hm => exact .ramped dir rfl hi hm

/-- Every command has one of the effects. -/
theorem exec_effect {i : Instr} {s t : State} (h : exec i s = .next t) : CommandEffect i s t := by
  cases i with
  | init => cases h; exact execInit_effect s
  | rdst => cases h; exact .answered _
  | rdcfg idx =>
    cases h
    split <;> exact .answered _
  | conv vol8 imm16 => cases h; exact .answered _
  | emitm imm16 => cases h; exact gated_effect emitBoth_effect
  | emitl imm16 => cases h; exact gated_effect emitLeft_effect
  | emitr imm16 => cases h; exact gated_effect emitRight_effect
  | mute => cases h; exact gated_effect (rampRequest_effect (dir := .toMute))
  | unmute => cases h; exact gated_effect (rampRequest_effect (dir := .toUnmute))
  | setvol imm16 => cases h; exact gated_effect fun hi => .volumeSet imm16 _ rfl hi

/-! ### What the updates do to the invariant (10_state.md R20) -/

/-- A pulse width that keeps both margins (10_state.md R20 item 7). -/
def PulseInRange (c : Params) (p : Pulse) : Prop := pulseLo c ≤ p.toNat ∧ p.toNat ≤ pulseHi c

theorem convertPulse_inRange {c : Params} (hc : legal c) (imm : Imm16) (vol : Byte) :
    PulseInRange c (convertPulse c imm vol) := by
  have held := convertPulse_toNat hc imm vol
  have bounds := clamp_range (lo := c.minMarginNs) (hi := c.periodNs - c.minMarginNs) (by omega)
    (pulseNs c (sext16 imm) (zext8 vol))
  unfold PulseInRange pulseLo pulseHi
  unfold convert at held
  omega

theorem silencePulse_inRange {c : Params} (hc : legal c) : PulseInRange c (silencePulse c) := by
  unfold PulseInRange pulseLo pulseHi
  rw [silencePulse_toNat hc]
  omega

/-- A PWM register that kept its value or holds a pulse width in range. -/
def KeptOrInRange (c : Params) (old new : Option Pulse) : Prop :=
  new = old ∨ ∃ p, new = some p ∧ PulseInRange c p

/-- What a channel holds after a write that it may refuse. -/
theorem KeptOrInRange.attempt {c : Params} {p : Pulse} (hp : PulseInRange c p) (ok : Bool) (old : Option Pulse) :
    KeptOrInRange c old (if ok then some p else old) :=
  (register_after_attempt ok old hp).imp_right fun written => ⟨p, written⟩

theorem KeptOrInRange.range {c : Params} {old new : Option Pulse} (h : KeptOrInRange c old new)
    (hold : ∀ p, old = some p → PulseInRange c p) : ∀ p, new = some p → PulseInRange c p := by
  rcases h with rfl | ⟨q, rfl, hq⟩
  · exact hold
  · rintro p ⟨⟩
    exact hq

theorem KeptOrInRange.isSome {c : Params} {old new : Option Pulse} (h : KeptOrInRange c old new)
    (hold : old.isSome = true) : new.isSome = true := by
  rcases h with rfl | ⟨q, rfl, -⟩
  · exact hold
  · rfl

/-- The invariant speaks of the block and its parameters only. -/
theorem Invariant.withSurroundings {s : State} (h : Invariant s) (okL okR : Bool) (rs : List Response)
    (es : List Event) (ts : List Turn) (g : HostState) :
    Invariant { s with pwmOkL := okL, pwmOkR := okR, responses := rs, events := es, turns := ts, host := g } :=
  { h with }

theorem Invariant.withVol {s : State} (h : Invariant s) {v : Byte} (hv : v.toNat ≤ s.cfg.maxVolume) :
    Invariant { s with vol := v } :=
  { h with vol_le := hv }

theorem Invariant.withPwm {s : State} (h : Invariant s) {pl pr : Option Pulse}
    (hl : KeptOrInRange s.cfg s.pwmL pl) (hr : KeptOrInRange s.cfg s.pwmR pr) :
    Invariant { s with pwmL := pl, pwmR := pr } :=
  { h with
    pwmL_range := hl.range h.pwmL_range
    pwmR_range := hr.range h.pwmR_range
    inited_written := fun hi => ⟨hl.isSome (h.inited_written hi).1, hr.isSome (h.inited_written hi).2⟩ }

theorem Invariant.withInited {s : State} (h : Invariant s) {p q : Pulse}
    (hp : PulseInRange s.cfg p) (hq : PulseInRange s.cfg q) :
    Invariant { s with pwmL := some p, pwmR := some q, inited := true } :=
  { h.withPwm (.inr ⟨p, rfl, hp⟩) (.inr ⟨q, rfl, hq⟩) with
    timer_inited := fun _ => rfl
    unmuted_inited := fun _ => rfl
    inited_written := fun _ => ⟨rfl, rfl⟩ }

/-- A ramp that goes on has a step number below STEP_COUNT. -/
theorem Invariant.withProgress {s : State} (h : Invariant s) {p : BitVec 16} (hf : s.fsm ≠ .idle)
    (hp : p.toNat < s.cfg.stepCount) : Invariant { s with progress := p } :=
  { h with
    progress_lt := hp
    idle_progress := fun hidle => absurd hidle hf }

/-- The controller returns to Idle with its timer stopped (41_ramp.md R78). -/
theorem Invariant.withIdle {s : State} (h : Invariant s) :
    Invariant { s with timerRun := false, progress := 0#16, fsm := .idle } :=
  { h with
    progress_lt := Nat.zero_lt_of_lt h.progress_lt
    idle_progress := fun _ => rfl
    timer_iff := by simp
    toMute_muted := nofun
    toUnmute_unmuted := nofun
    timer_inited := nofun }

/-- A ramp starts: FSM and MUTED agree with its direction, and INITED was tested at the gate (41_ramp.md R75). -/
theorem Invariant.rampStart {s : State} (h : Invariant s) (hi : s.inited = true) (dir : Dir) :
    Invariant (rampStart dir s) := by
  rw [rampStart_eq]
  exact { h with
    startVol_le := h.vol_le
    progress_lt := Nat.zero_lt_of_lt h.progress_lt
    idle_progress := fun _ => rfl
    timer_iff := by cases dir <;> simp [dirFsm]
    toMute_muted := by cases dir <;> simp [dirFsm, dirMuted]
    toUnmute_unmuted := by cases dir <;> simp [dirFsm, dirMuted]
    timer_inited := fun _ => hi
    unmuted_inited := fun _ => hi }

/-- A ramp ends: a mute ramp has tried to write silence, which is in range (41_ramp.md R78, R80). -/
theorem Invariant.rampEnd {s : State} (h : Invariant s) (hc : legal s.cfg) (dir : Dir) :
    Invariant (rampEnd dir s) := by
  have silent := silencePulse_inRange hc
  cases dir with
  | toMute =>
    rw [rampEnd_toMute]
    exact (h.withIdle.withPwm (.attempt silent s.pwmOkL s.pwmL) (.attempt silent s.pwmOkR s.pwmR)).withSurroundings
      _ _ _ _ _ _
  | toUnmute =>
    rw [rampEnd_toUnmute]
    exact h.withIdle.withSurroundings _ _ _ _ _ _

/-! ### What the agents do to the invariant (10_state.md R20) -/

/-- A stored volume is at most the integer it was made from. -/
theorem volume_toNat_le {v : Int} {m : Nat} (h0 : 0 ≤ v) (hm : v ≤ m) : (BitVec.ofInt 8 v).toNat ≤ m := by
  rw [BitVec.toNat_ofInt]
  omega

theorem setvolValue_le (c : Params) (imm : Imm16) : (setvolValue c imm).toNat ≤ c.maxVolume := by
  obtain ⟨low, high⟩ := clamp_range (lo := 0) (hi := c.maxVolume) (by omega) (sext16 imm)
  exact volume_toNat_le low high

/-- Up to the last step the interpolation stays between 0 and MAX_VOLUME (41_ramp.md R77). -/
theorem rampVolume_range {c : Params} {start p : Nat} (hs : start ≤ c.maxVolume) (hp : p ≤ c.stepCount)
    (dir : Dir) :
    0 ≤ rampVolume c dir start p ∧ rampVolume c dir start p ≤ c.maxVolume := by
  have share (v : Nat) : v * p / c.stepCount ≤ v :=
    Nat.div_le_of_le_mul (by rw [Nat.mul_comm v]; exact Nat.mul_le_mul_right v hp)
  cases dir with
  | toMute =>
    rw [rampVolume_toMute]
    have fallen := share start
    generalize start * p / c.stepCount = loss at fallen ⊢
    omega
  | toUnmute =>
    rw [rampVolume_toUnmute]
    exact ⟨Int.natCast_nonneg _, Int.ofNat_le.mpr (share c.maxVolume)⟩

/-- The timer agent: the volume stays on the ramp, the step number counts up to STEP_COUNT, and then the ramp ends. -/
theorem Invariant.timerTurn {s : State} (h : Invariant s) (hc : legal s.cfg) : Invariant (timerTurn s) := by
  rcases timerTurn_cases s with ⟨-, same⟩ | ⟨dir, v, hrun, -, rfl, hturn⟩
  · rw [same]
    exact h
  have hlt := h.progress_lt
  obtain ⟨low, high⟩ := rampVolume_range h.startVol_le (p := s.progress.toNat + 1) hlt dir
  have moved := h.withVol (volume_toNat_le low high)
  rcases hturn with ⟨hp, going⟩ | ⟨-, last⟩
  · rw [going]
    refine moved.withProgress (h.timer_iff.mp hrun) ?_
    simp only [BitVec.toNat_ofNat]
    omega
  · rw [last]
    exact moved.rampEnd hc dir

/-- The register of an emission keeps its value or takes a converted pulse. -/
theorem keptOrInRange_of_emitted {c : Params} (hc : legal c) {imm : Imm16} {vol : Byte} {old new : Option Pulse}
    {named : Prop} (h : new = old ∨ new = some (convertPulse c imm vol) ∧ named) : KeptOrInRange c old new :=
  h.imp_right fun ⟨written, _⟩ => ⟨_, written, convertPulse_inRange hc imm vol⟩

/-- The command port, one effect at a time. -/
theorem Invariant.command_effect {i : Instr} {s t : State} (h : Invariant s) (hc : legal s.cfg)
    (he : CommandEffect i s t) : Invariant t := by
  cases he with
  | answered r => exact h.withSurroundings _ _ _ _ _ _
  | inited es r _ _ _ =>
    exact (h.withInited (silencePulse_inRange hc) (silencePulse_inRange hc)).withSurroundings _ _ _ _ _ _
  | emitted imm pl pr es r _ hl hr =>
    exact (h.withPwm (keptOrInRange_of_emitted hc hl) (keptOrInRange_of_emitted hc hr)).withSurroundings _ _ _ _ _ _
  | ramped dir _ hi _ => exact (h.rampStart hi dir).withSurroundings _ _ _ _ _ _
  | volumeSet imm r _ _ => exact (h.withVol (setvolValue_le s.cfg imm)).withSurroundings _ _ _ _ _ _

/-- A word on the port, legal or not. -/
theorem Invariant.command {w : Word} {s t : State} (h : Invariant s) (hc : legal s.cfg)
    (hw : command w s = .next t) : Invariant t := by
  unfold Machine.command at hw
  split at hw
  · exact h.command_effect hc (exec_effect hw)
  · cases hw
    exact h.withSurroundings _ _ _ _ _ _

/-- The driver of the host reaches the block through the port only. -/
theorem Invariant.hostMove {s t : State} (h : Invariant s) (hc : legal s.cfg) (hm : HostMove s t) : Invariant t :=
  hm.elim (fun _ => h.withSurroundings _ _ _ _ _ _) fun _ g _ _ hu =>
    ((h.withSurroundings _ _ _ _ _ g).command hc hu).withSurroundings _ _ _ _ _ _

/-- The state after reset (10_state.md R24). -/
theorem invariant_resetWith {c : Params} (hc : legal c) : Invariant (State.resetWith c) where
  vol_le := Nat.zero_le _
  startVol_le := Nat.zero_le _
  progress_lt := hc.2.1.1
  idle_progress := fun _ => rfl
  timer_iff := by simp [State.resetWith]
  toMute_muted := nofun
  toUnmute_unmuted := nofun
  timer_inited := nofun
  unmuted_inited := nofun
  pwmL_range := nofun
  pwmR_range := nofun
  inited_written := nofun

theorem invariant_assertReset {s : State} (hc : legal s.cfg) : Invariant (assertReset s) :=
  (invariant_resetWith hc).withSurroundings _ _ _ _ _ _

/-- What every step keeps, every run keeps. -/
theorem run_keeps {P : State → Prop} (keep : ∀ s t, P s → step s = .next t → P t) :
    ∀ (k : Nat) {s t : State}, P s → run k s = .next t → P t := by
  intro k
  induction k with
  | zero =>
    intro s t hs h
    cases h
    exact hs
  | succ k ih =>
    intro s t hs h
    obtain ⟨u, hu, hk⟩ := run_succ_inv h
    exact ih (keep s u hs hu) hk

/-! ### The fields of the status word (10_state.md R18) -/

theorem statusWord_vol (s : State) : (statusWord s).extractLsb' 0 8 = s.vol := by
  rw [statusWord, BitVec.extractLsb'_append_eq_of_add_le (by omega), BitVec.extractLsb'_eq_self]

theorem statusWord_fsm (s : State) : (statusWord s).extractLsb' 10 2 = fsmCode s.fsm := by
  simp (disch := omega) only [statusWord, BitVec.extractLsb'_append_eq_of_le,
    BitVec.extractLsb'_append_eq_of_add_le, Nat.reduceSub, BitVec.extractLsb'_eq_self]

theorem statusWord_timerRun (s : State) : (statusWord s).getLsbD 12 = s.timerRun := by
  simp only [statusWord, BitVec.getLsbD_append]
  simp

theorem statusWord_zeros (s : State) : (statusWord s).extractLsb' 13 3 = 0#3 := by
  simp (disch := omega) only [statusWord, BitVec.extractLsb'_append_eq_of_le,
    BitVec.extractLsb'_append_eq_of_add_le, Nat.reduceSub, BitVec.extractLsb'_eq_self]

theorem statusWord_progress (s : State) : (statusWord s).extractLsb' 16 16 = s.progress := by
  simp (disch := omega) only [statusWord, BitVec.extractLsb'_append_eq_of_le, Nat.reduceSub,
    BitVec.extractLsb'_eq_self]

theorem statusWord_resetWith (c : Params) : statusWord (State.resetWith c) = 0x00000100#32 := by
  simp [statusWord, State.resetWith, fsmCode]

/-- The code 3 stands for no state of the controller (10_state.md R15). -/
theorem fsmCode_ne_three (f : Fsm) : fsmCode f ≠ 3#2 := by
  cases f <;> decide

/-! ### The obligations on the state -/

/-- Settles O14: the effect of each agent's step, one at a time. -/
theorem stepKeepsTheInvariant : Obligations.StepKeepsTheInvariant := by
  intro s t hs h
  obtain ⟨hc, ts, ⟨w, hw⟩ | rfl | hhost | ⟨-, rfl⟩ | ⟨l, r, rfl⟩ | ⟨-, rfl⟩⟩ := step_cases h
  · exact (hs.withSurroundings _ _ _ _ ts _).command hc hw
  · exact hs.withSurroundings _ _ _ _ _ _
  · exact (hs.withSurroundings _ _ _ _ ts _).hostMove hc hhost
  · exact (hs.withSurroundings _ _ _ _ ts _).timerTurn hc
  · exact hs.withSurroundings _ _ _ _ _ _
  · exact invariant_assertReset hc

/-- Settles O16: the invariant holds at reset and every step keeps it. -/
theorem reachableStatesMeetTheInvariant : Obligations.ReachableStatesMeetTheInvariant := by
  intro c okL okR ts g k t hc
  exact run_keeps stepKeepsTheInvariant k ((invariant_resetWith hc).withSurroundings _ _ _ _ _ _)

/-- Settles O31: RDST answers `statusWord`, whose fields are read off one at a time. -/
theorem rdstAnswersTheStatusWord : Obligations.RdstAnswersTheStatusWord := by
  refine ⟨fun s => ?_, statusWord_resetWith⟩
  obtain ⟨inited, muted, -⟩ := statusWord_bits s
  refine ⟨statusWord s, rfl, statusWord_vol s, muted, inited, ?_, ?_, statusWord_timerRun s, statusWord_zeros s,
    statusWord_progress s⟩
  · rw [statusWord_fsm]
    cases s.fsm <;> rfl
  · rw [statusWord_fsm]
    exact fsmCode_ne_three s.fsm

/-- Settles O47: the effect of each command writes only the items listed for it. -/
theorem commandsWriteOnlyTheirRegisters : Obligations.CommandsWriteOnlyTheirRegisters := by
  intro i s t h
  obtain ⟨hcfg, hokL, hokR, hturns, hhost⟩ := exec_sameSurroundings h
  refine ⟨⟨hcfg, hokL, hokR, hturns, hhost⟩, ?_⟩
  cases exec_effect h with
  | answered r => simp
  | inited es r hi _ _ => simp [hi]
  | emitted imm pl pr es r _ hl hr =>
    refine ⟨by simp, by simp, by simp, fun changed => ?_, fun changed => ?_, r, es, rfl, rfl⟩
    · obtain ⟨-, named⟩ := hl.resolve_left changed
      exact .inr (named.imp (⟨imm, ·⟩) (⟨imm, ·⟩))
    · obtain ⟨-, named⟩ := hr.resolve_left changed
      exact .inr (named.imp (⟨imm, ·⟩) (⟨imm, ·⟩))
  | ramped dir hi _ _ => cases dir <;> simp [hi, dirCommand, rampStart_eq]
  | volumeSet imm r hi _ => simp [hi]

/-- Settles O12: a reset turn leads to the state that `assertReset` leaves. -/
theorem resetLeavesTheResetValues : Obligations.ResetLeavesTheResetValues := by
  refine ⟨fun s ts hc h => ⟨assertReset { s with turns := ts }, step_turn hc h, ?_⟩, fun c => ?_⟩
  · simp
  · simp [State.resetWith]

/-- Settles O15: CFG-A is a legal configuration. -/
theorem resetMeetsTheInvariant : Obligations.ResetMeetsTheInvariant :=
  ⟨fun _ => invariant_resetWith, invariant_resetWith (by decide)⟩

end Sys2Proof.Machine

/-! ### The byte order of a transport (20_memory.md R31) -/

namespace Sys2Proof.Machine

/-- The four bytes of a word are its digits in base 256, lowest first (20_memory.md R31). -/
theorem bytesOfWord_toNat (w : Word) :
    (bytesOfWord w).map BitVec.toNat =
      [w.toNat % 256, w.toNat / 256 % 256, w.toNat / 256 ^ 2 % 256, w.toNat / 256 ^ 3 % 256] := by
  simp [bytesOfWord, BitVec.extractLsb'_toNat, Nat.shiftRight_eq_div_pow]

/-- Settles O7: the bytes are digits in base 256, and only four of them join to a word. -/
theorem bytesOfAWordAreLittleEndian : Obligations.BytesOfAWordAreLittleEndian :=
  fun w s => ⟨bytesOfWord_toNat w, deliver_bytesOfWord w s, fun _ h => deliver_partial h s⟩

end Sys2Proof.Machine

/-! ### A tick and the command after it (20_memory.md R35) -/

namespace Sys2Proof.Machine

/-- The end of a ramp neither reads nor writes the pending turns. -/
theorem rampEnd_withTurns (dir : Dir) (s : State) (ts : List Turn) :
    rampEnd dir { s with turns := ts } = { rampEnd dir s with turns := ts } := by
  cases dir with
  | toMute => rw [rampEnd_toMute, rampEnd_toMute]
  | toUnmute => rw [rampEnd_toUnmute, rampEnd_toUnmute]

/-- One tick of a ramp neither reads nor writes the pending turns. -/
theorem rampTick_withTurns (dir : Dir) (s : State) (ts : List Turn) :
    rampTick dir { s with turns := ts } = { rampTick dir s with turns := ts } := by
  unfold rampTick
  dsimp only
  generalize BitVec.ofInt 8 _ = v
  split
  · exact rampEnd_withTurns dir { s with vol := v } ts
  · rfl

/-- A turn of the timer neither reads nor writes the pending turns (41_ramp.md R78). -/
theorem timerTurn_withTurns (s : State) (ts : List Turn) :
    timerTurn { s with turns := ts } = { timerTurn s with turns := ts } := by
  unfold timerTurn tick
  dsimp only
  split
  · split
    · rfl
    · exact rampTick_withTurns _ s ts
    · exact rampTick_withTurns _ s ts
  · rfl

/-- A tick and then a legal word: the command runs in the state the tick left (20_memory.md R35). -/
theorem run_tick_command {s : State} {w : Word} {i : Instr} {ts : List Turn} (hc : legal s.cfg)
    (h : s.turns = .tick :: .word w :: ts) (hw : decode w = .ok i) :
    run 2 s = exec i { timerTurn s with turns := ts } := by
  have ticked := step_tick hc h
  rw [timerTurn_withTurns] at ticked
  have presented : step { timerTurn s with turns := .word w :: ts } = exec i { timerTurn s with turns := ts } :=
    (step_word (by rw [(timerTurn_frame s).1]; exact hc) rfl).trans (command_legal hw _)
  obtain ⟨t, ht⟩ := exec_next i { timerTurn s with turns := ts }
  rw [run_succ 1 ticked, run_succ 0 (presented.trans ht), run_zero, ht]

/-! ### The emissions past the gate (40_convert.md R69 to R71) -/

theorem exec_emitm_ready {s : State} (h : s.inited = true) (imm : Imm16) :
    exec (.emitm imm) s = .next (emitBoth (convertPulse s.cfg imm s.vol) s) :=
  congrArg _ (gated_ready h _)

theorem exec_emitl_ready {s : State} (h : s.inited = true) (imm : Imm16) :
    exec (.emitl imm) s = .next (emitChannel .left (convertPulse s.cfg imm s.vol) s) :=
  congrArg _ (gated_ready h _)

theorem exec_emitr_ready {s : State} (h : s.inited = true) (imm : Imm16) :
    exec (.emitr imm) s = .next (emitChannel .right (convertPulse s.cfg imm s.vol) s) :=
  congrArg _ (gated_ready h _)

/-- What EMITM leaves in the volume, the registers and the responses, for each pattern of inputs (40_convert.md R69). -/
theorem emitBoth_registers (p : Pulse) (s : State) :
    (emitBoth p s).vol = s.vol ∧
      (emitBoth p s).pwmL = (if s.pwmOkL = true then some p else s.pwmL) ∧
      (emitBoth p s).pwmR = (if s.pwmOkL = true ∧ s.pwmOkR = true then some p else s.pwmR) ∧
      (emitBoth p s).responses = s.responses ++ [if s.pwmOkL = false then ⟨.errHwWrite, 0#32⟩
        else if s.pwmOkR = false then ⟨.errHwWrite, 1#32⟩ else ⟨.ok, pulseData p⟩] := by
  cases hl : s.pwmOkL with
  | true =>
    rw [emitBoth_leftAccepted hl]
    cases s.pwmOkR <;> simp
  | false =>
    rw [emitBoth_leftRefused hl]
    simp

/-- What EMITL leaves in the volume, the registers and the responses (40_convert.md R70). -/
theorem emitLeft_registers (p : Pulse) (s : State) :
    (emitChannel .left p s).vol = s.vol ∧
      (emitChannel .left p s).pwmL = (if s.pwmOkL = true then some p else s.pwmL) ∧
      (emitChannel .left p s).pwmR = s.pwmR ∧
      (emitChannel .left p s).responses =
        s.responses ++ [if s.pwmOkL = false then ⟨.errHwWrite, 0#32⟩ else ⟨.ok, pulseData p⟩] := by
  rw [emitChannel_left]
  cases s.pwmOkL <;> simp

/-- What EMITR leaves in the volume, the registers and the responses (40_convert.md R71). -/
theorem emitRight_registers (p : Pulse) (s : State) :
    (emitChannel .right p s).vol = s.vol ∧
      (emitChannel .right p s).pwmR = (if s.pwmOkR = true then some p else s.pwmR) ∧
      (emitChannel .right p s).pwmL = s.pwmL ∧
      (emitChannel .right p s).responses =
        s.responses ++ [if s.pwmOkR = false then ⟨.errHwWrite, 1#32⟩ else ⟨.ok, pulseData p⟩] := by
  rw [emitChannel_right]
  cases s.pwmOkR <;> simp

/-- Settles O52: the command runs in the state the tick left, whose inputs, INITED and responses are those before it. -/
theorem tickIsVisibleToTheNextEmission : Obligations.TickIsVisibleToTheNextEmission := by
  intro s w imm ts hc hinv hrun hturns
  obtain ⟨hcfg, -, -, hinited, hokL, hokR, hresponses, -, -⟩ := timerTurn_frame s
  have ready : ({ timerTurn s with turns := ts } : State).inited = true := hinited.trans (hinv.timer_inited hrun)
  have pulse := convertPulse_toNat hc imm (timerTurn s).vol
  rw [← hcfg] at pulse ⊢
  rw [← hokL, ← hokR, ← hresponses]
  refine ⟨_, pulse, fun hw => ?_, fun hw => ?_, fun hw => ?_⟩
  · exact ⟨_, (run_tick_command hc hturns hw).trans (exec_emitm_ready ready imm), emitBoth_registers _ _⟩
  · exact ⟨_, (run_tick_command hc hturns hw).trans (exec_emitl_ready ready imm), emitLeft_registers _ _⟩
  · exact ⟨_, (run_tick_command hc hturns hw).trans (exec_emitr_ready ready imm), emitRight_registers _ _⟩

end Sys2Proof.Machine

/-! ### The fields of a word (30_encoding.md R41) -/

namespace Sys2Proof

/-- A word is packed from three fields exactly when they are its own. -/
theorem packWord_eq_iff {op mid : Byte} {low : Imm16} {w : Word} :
    packWord op mid low = w ↔ opField w = op ∧ midField w = mid ∧ lowField w = low := by
  constructor
  · rintro rfl
    simp
  · rintro ⟨rfl, rfl, rfl⟩
    exact packWord_fields w

/-- Bits 23:0 are 0 exactly when both fields below the opcode are. -/
theorem low24_eq_zero_iff (w : Word) : w.toNat % 2 ^ 24 = 0 ↔ midField w = 0#8 ∧ lowField w = 0#16 := by
  obtain ⟨-, hmid, hlow⟩ := field_toNat w
  rw [← BitVec.toNat_inj, ← BitVec.toNat_inj, hmid, hlow]
  simp only [BitVec.toNat_ofNat]
  omega

/-! ### The commands each format accepts (30_encoding.md R41) -/

theorem formatZ_eq_ok {w : Word} {i j : Instr} :
    formatZ w i = .ok j ↔ (midField w = 0#8 ∧ lowField w = 0#16) ∧ i = j := by
  rcases formatZ_cases w i with ⟨hmid, hlow, h⟩ | ⟨hne, h⟩
  · simp [hmid, hlow, h]
  · simp [hne, h]

theorem formatS_eq_ok {w : Word} {mk : Imm16 → Instr} {j : Instr} :
    formatS w mk = .ok j ↔ midField w = 0#8 ∧ mk (lowField w) = j := by
  rcases formatS_cases w mk with ⟨hmid, h⟩ | ⟨hmid, h⟩
  · simp [hmid, h]
  · simp [hmid, h]

theorem formatX_eq_ok {w : Word} {mk : Byte → Instr} {j : Instr} :
    formatX w mk = .ok j ↔ lowField w = 0#16 ∧ (midField w).toNat ≤ 7 ∧ mk (midField w) = j := by
  rcases formatX_cases w mk with ⟨hlow, hmid, h⟩ | ⟨hlow, h⟩ | ⟨hlow, hmid, h⟩
  · simp [hlow, hmid, h]
  · simp [hlow, h]
  · simp [hmid.not_ge, h]

theorem formatVS_eq_ok {w : Word} {mk : Byte → Imm16 → Instr} {j : Instr} :
    formatVS w mk = .ok j ↔ mk (midField w) (lowField w) = j := by
  simp [formatVS]

/-! ### Command words and commands, one for one (30_encoding.md R44, R45) -/

/-- Decoding undoes encoding (30_encoding.md R44): each command's opcode selects its own format, which finds its
must-be-0 bits at 0. -/
theorem decode_encode {i : Instr} (h : i.wellFormed = true) : decode (encode i) = .ok i := by
  cases i with
  | init => decide
  | rdst => decide
  | rdcfg idx =>
    have hidx : ¬ 7 < idx.toNat := by simpa [Instr.wellFormed] using h
    simp [encode, opcodeOf, decode, formatX, hidx]
  | conv vol8 imm16 => simp [encode, opcodeOf, decode, formatVS]
  | emitm imm16 => simp [encode, opcodeOf, decode, formatS]
  | emitl imm16 => simp [encode, opcodeOf, decode, formatS]
  | emitr imm16 => simp [encode, opcodeOf, decode, formatS]
  | mute => decide
  | unmute => decide
  | setvol imm16 => simp [encode, opcodeOf, decode, formatS]

/-- A command read in format Z encodes to the word it was read from. -/
theorem formatZ_reencodes {op : Byte} {w : Word} {i j : Instr}
    (hz : i.wellFormed = true ∧ encode i = packWord op 0#8 0#16) (hop : opField w = op) (h : formatZ w i = .ok j) :
    j.wellFormed = true ∧ encode j = w := by
  obtain ⟨hwf, hword⟩ := hz
  obtain ⟨⟨hmid, hlow⟩, rfl⟩ := formatZ_eq_ok.1 h
  exact ⟨hwf, hword.trans (packWord_eq_iff.2 ⟨hop, hmid, hlow⟩)⟩

/-- A command read in format S encodes to the word it was read from. -/
theorem formatS_reencodes {op : Byte} {w : Word} {mk : Imm16 → Instr} {j : Instr}
    (hs : ∀ imm, (mk imm).wellFormed = true ∧ encode (mk imm) = packWord op 0#8 imm) (hop : opField w = op)
    (h : formatS w mk = .ok j) : j.wellFormed = true ∧ encode j = w := by
  obtain ⟨hmid, rfl⟩ := formatS_eq_ok.1 h
  obtain ⟨hwf, hword⟩ := hs (lowField w)
  exact ⟨hwf, hword.trans (packWord_eq_iff.2 ⟨hop, hmid, rfl⟩)⟩

/-- Encoding undoes decoding (30_encoding.md R44, R45): the command holds the fields its format read, and the rest of
the word is the command's opcode and must-be-0 bits. -/
theorem encode_decode {w : Word} {i : Instr} (h : decode w = .ok i) : i.wellFormed = true ∧ encode i = w := by
  rcases decode_fields (w := w) with ⟨hop, hd⟩ | ⟨hop, hd⟩ | ⟨hop, hd⟩ | ⟨hop, hd⟩ | ⟨hop, hd⟩ | ⟨hop, hd⟩ |
    ⟨hop, hd⟩ | ⟨hop, hd⟩ | ⟨hop, hd⟩ | ⟨hop, hd⟩ | ⟨-, hd⟩ <;> rw [hd] at h
  · exact formatZ_reencodes ⟨rfl, rfl⟩ hop h
  · exact formatZ_reencodes ⟨rfl, rfl⟩ hop h
  · obtain ⟨hlow, hidx, rfl⟩ := formatX_eq_ok.1 h
    exact ⟨decide_eq_true hidx, packWord_eq_iff.2 ⟨hop, rfl, hlow⟩⟩
  · obtain rfl := formatVS_eq_ok.1 h
    exact ⟨rfl, packWord_eq_iff.2 ⟨hop, rfl, rfl⟩⟩
  · exact formatS_reencodes (fun _ => ⟨rfl, rfl⟩) hop h
  · exact formatS_reencodes (fun _ => ⟨rfl, rfl⟩) hop h
  · exact formatS_reencodes (fun _ => ⟨rfl, rfl⟩) hop h
  · exact formatZ_reencodes ⟨rfl, rfl⟩ hop h
  · exact formatZ_reencodes ⟨rfl, rfl⟩ hop h
  · exact formatS_reencodes (fun _ => ⟨rfl, rfl⟩) hop h
  · cases h

/-- The legal words are the words of the well-formed commands, one for one. -/
theorem decode_eq_ok_iff {w : Word} {i : Instr} : decode w = .ok i ↔ i.wellFormed = true ∧ encode i = w := by
  constructor
  · exact encode_decode
  · rintro ⟨hwf, rfl⟩
    exact decode_encode hwf

/-- The four bytes of a word are read as the word is. -/
theorem decodeBytes_bytesOfWord (w : Word) : decodeBytes (bytesOfWord w) = decode w := by
  simp [decodeBytes, wordOfBytes_bytesOfWord]

/-! ### Match and mask (30_encoding.md R44) -/

/-- Masking a word tests its fields one by one. -/
theorem and_packWord_eq_iff {w : Word} {a b a' b' : Byte} {c c' : Imm16} :
    w &&& packWord a b c = packWord a' b' c' ↔ opField w &&& a = a' ∧ midField w &&& b = b' ∧ lowField w &&& c = c' := by
  conv_lhs => rw [← packWord_fields w, packWord_and, eq_comm, packWord_eq_iff]
  simp [eq_comm]

theorem byte_and_ones (b : Byte) : b &&& 0xFF#8 = b := BitVec.and_allOnes

/-- The five high bits of an index are 0 exactly when it is at most 7. -/
theorem and_F8_eq_zero_iff : ∀ idx : Byte, idx &&& 0xF8#8 = 0#8 ↔ idx.toNat ≤ 7 := by decide

/-- The mask of format Z tests the whole word. -/
theorem maskZ_iff {w v : Word} {i : Instr} (hz : i.wellFormed = true ∧ encode i = v) :
    w &&& 0xFFFFFFFF#32 = v ↔ decode w = .ok i := by
  have whole : w &&& 0xFFFFFFFF#32 = w := BitVec.and_allOnes
  obtain ⟨hwf, rfl⟩ := hz
  simpa [whole, decode_eq_ok_iff, hwf] using eq_comm

/-- The mask of format S tests the opcode and the must-be-0 byte. -/
theorem maskS_iff {w v : Word} {op : Byte} {mk : Imm16 → Instr} (hv : v = packWord op 0#8 0#16)
    (hs : ∀ imm, (mk imm).wellFormed = true ∧ encode (mk imm) = packWord op 0#8 imm) :
    w &&& 0xFFFF0000#32 = v ↔ ∃ imm, decode w = .ok (mk imm) := by
  have mask : 0xFFFF0000#32 = packWord 0xFF#8 0xFF#8 0#16 := by decide
  rw [hv, mask, and_packWord_eq_iff]
  simp [byte_and_ones, decode_eq_ok_iff, hs, packWord_eq_iff]

/-- The mask of CONV tests the opcode. -/
theorem maskConv_iff (w : Word) :
    w &&& 0xFF000000#32 = 0x10000000#32 ↔ ∃ vol8 imm, decode w = .ok (.conv vol8 imm) := by
  have mask : 0xFF000000#32 = packWord 0xFF#8 0#8 0#16 := by decide
  have base : 0x10000000#32 = packWord 0x10#8 0#8 0#16 := by decide
  rw [mask, base, and_packWord_eq_iff]
  simp [byte_and_ones, decode_eq_ok_iff, Instr.wellFormed, encode, opcodeOf, packWord_eq_iff]

/-- The exact mask of RDCFG tests the opcode, the must-be-0 half and the five high bits of the index. -/
theorem maskRdcfg_iff (w : Word) :
    w &&& 0xFFF8FFFF#32 = 0x03000000#32 ↔ ∃ idx, decode w = .ok (.rdcfg idx) := by
  have mask : 0xFFF8FFFF#32 = packWord 0xFF#8 0xF8#8 0xFFFF#16 := by decide
  have base : 0x03000000#32 = packWord 0x03#8 0#8 0#16 := by decide
  have half : lowField w &&& 0xFFFF#16 = lowField w := BitVec.and_allOnes
  rw [mask, base, and_packWord_eq_iff, and_F8_eq_zero_iff]
  simpa [byte_and_ones, half, decode_eq_ok_iff, Instr.wellFormed, encode, opcodeOf, packWord_eq_iff]
    using and_left_comm

end Sys2Proof

/-! ### The obligations on commands and their words -/

namespace Sys2Proof.Machine

/-- Settles O1: decoding undoes encoding, and four bytes are read as their word is. -/
theorem decodeOfEncodeIsTheCommand : Obligations.DecodeOfEncodeIsTheCommand :=
  fun _ h => ⟨decode_encode h, (decodeBytes_bytesOfWord _).trans (decode_encode h)⟩

/-- Settles O2: encoding undoes decoding. -/
theorem decodedWordReencodes : Obligations.DecodedWordReencodes := fun _ _ => encode_decode

/-- Settles O3, by the mask of each format. -/
theorem matchAndMaskDecideTheCommand : Obligations.MatchAndMaskDecideTheCommand := by
  intro w
  exact ⟨maskZ_iff ⟨rfl, rfl⟩, maskZ_iff ⟨rfl, rfl⟩, maskRdcfg_iff w, maskConv_iff w,
    maskS_iff (op := 0x11#8) rfl fun _ => ⟨rfl, rfl⟩, maskS_iff (op := 0x12#8) rfl fun _ => ⟨rfl, rfl⟩,
    maskS_iff (op := 0x13#8) rfl fun _ => ⟨rfl, rfl⟩, maskZ_iff ⟨rfl, rfl⟩, maskZ_iff ⟨rfl, rfl⟩,
    maskS_iff (op := 0x22#8) rfl fun _ => ⟨rfl, rfl⟩⟩

/-! ### Illegal words (30_encoding.md R45) -/

/-- The five cases of R45 on the word's fields. -/
theorem illegalWord_iff (w : Word) : IllegalWord w ↔
    opField w ∉ [0x01#8, 0x02#8, 0x03#8, 0x10#8, 0x11#8, 0x12#8, 0x13#8, 0x20#8, 0x21#8, 0x22#8] ∨
    (opField w ∈ [0x01#8, 0x02#8, 0x20#8, 0x21#8] ∧ ¬ (midField w = 0#8 ∧ lowField w = 0#16)) ∨
    (opField w ∈ [0x11#8, 0x12#8, 0x13#8, 0x22#8] ∧ midField w ≠ 0#8) ∨
    (opField w = 0x03#8 ∧ lowField w ≠ 0#16) ∨
    (opField w = 0x03#8 ∧ 7 < (midField w).toNat) := by
  obtain ⟨hop, hmid, hlow⟩ := field_toNat w
  simp only [IllegalWord, ne_eq, low24_eq_zero_iff, ← hop, ← hmid, ← hlow, List.mem_cons, List.not_mem_nil,
    or_false, ← BitVec.toNat_inj, BitVec.toNat_ofNat]

/-- The words outside the five cases are those that decode to a command. -/
theorem not_illegalWord_iff (w : Word) : ¬ IllegalWord w ↔ ∃ i, decode w = .ok i := by
  rw [illegalWord_iff]
  rcases decode_fields (w := w) with ⟨hop, hd⟩ | ⟨hop, hd⟩ | ⟨hop, hd⟩ | ⟨hop, hd⟩ | ⟨hop, hd⟩ | ⟨hop, hd⟩ |
    ⟨hop, hd⟩ | ⟨hop, hd⟩ | ⟨hop, hd⟩ | ⟨hop, hd⟩ | ⟨hop, hd⟩ <;>
    simp [hop, hd, formatZ_eq_ok, formatS_eq_ok, formatX_eq_ok, formatVS_eq_ok]

/-- Settles O4: a word that decodes is in none of the five cases, and one that does not is answered on the port. -/
theorem illegalWordsAreExactlyTheFiveCases : Obligations.IllegalWordsAreExactlyTheFiveCases := by
  intro w
  cases hd : decode w with
  | ok i =>
    have legalWord : ¬ IllegalWord w := (not_illegalWord_iff w).2 ⟨i, hd⟩
    exact ⟨by simp [legalWord], fun _ => ⟨i, rfl, (encode_decode hd).1⟩, fun h => absurd h legalWord⟩
  | error e =>
    have illegal : IllegalWord w := by
      by_contra h
      obtain ⟨i, hi⟩ := (not_illegalWord_iff w).1 h
      simp [hd] at hi
    exact ⟨by simp [illegal], fun h => absurd illegal h, fun _ s => command_illegal hd s⟩

/-! ### Operands (30_encoding.md R42, R48) -/

/-- A sample is its field in two's complement. -/
theorem sext16_eq_toInt (imm : Imm16) : sext16 imm = imm.toInt := by
  rw [sext16, BitVec.toInt_eq_toNat_cond]
  split <;> split <;> omega

/-- Modulo `2^16` an operand is its field as a number (30_encoding.md R48). -/
theorem sext16_emod (imm : Imm16) : sext16 imm % 2 ^ 16 = imm.toNat := by
  unfold sext16
  split <;> omega

/-- Settles O5: a packed word is the sum of its fields. -/
theorem assembledWordsCarryTheirOperands : Obligations.AssembledWordsCarryTheirOperands := by
  refine ⟨by decide, by decide, by decide, by decide, fun idx => ?_, fun imm => ?_⟩
  · simp [encode, opcodeOf, packWord_toNat, zext8]
  · simp only [sext16_emod]
    simp [encode, opcodeOf, packWord_toNat, zext8]

/-- Settles O6: both extensions are the library's readings of a bit vector. -/
theorem operandsAreSignAndZeroExtended : Obligations.OperandsAreSignAndZeroExtended := by
  refine ⟨fun imm => ?_, fun x hlo hhi => ?_, fun b => ⟨Nat.le_of_lt_succ b.isLt, BitVec.ofNat_toNat 8 b⟩⟩
  · rw [sext16_eq_toInt]
    exact ⟨rfl, BitVec.le_toInt imm, Int.le_of_lt_add_one BitVec.toInt_lt⟩
  · rw [sext16_eq_toInt, BitVec.toInt_ofInt]
    exact Int.bmod_eq_of_le (by omega) (by omega)

/-- Settles O8, by running the decoder on each of the vectors. -/
theorem decodedWordsOfTheManual : Obligations.DecodedWordsOfTheManual := by
  unfold Obligations.DecodedWordsOfTheManual
  decide

end Sys2Proof.Machine

/-! ### Every turn has a next state (93_implementation_defined.md section 3) -/

namespace Sys2Proof.Machine

/-- The first command of a task answers a next state, unless the task is PLAY.S on an odd count. -/
theorem startTask_next_or_odd (task : HostTask) (s : State) :
    (∃ t, startTask task s = .next t) ∨ startTask task s = .refused .oddStereoBuffer := by
  cases task with
  | word w =>
    obtain ⟨u, hu⟩ := command_next w s
    exact .inl ⟨_, by rw [startTask, hu]⟩
  | playS buf =>
    rw [startTask]
    split
    · exact .inl (ask_next _ _ _)
    · exact .inr rfl
  | emits l r => exact .inl (ask_next _ _ _)
  | playM buf => exact .inl (ask_next .rdst _ s)
  | rampWait => exact .inl (ask_next .rdst _ s)
  | bringup => exact .inl (ask_next .init _ s)
  | shutdown => exact .inl (ask_next .mute _ s)

/-- A turn of the host answers a next state, unless a PLAY.S meets an odd count (43_host_sequences.md R96). -/
theorem hostTurn_next_or_odd (s : State) :
    (∃ t, hostTurn s = .next t) ∨ hostTurn s = .refused .oddStereoBuffer := by
  unfold hostTurn
  split
  · split
    · exact .inl ⟨_, rfl⟩
    · exact startTask_next_or_odd _ _
  · exact .inl (ask_next _ _ _)
  · exact .inl ⟨_, rfl⟩
  · exact .inl (ask_next _ _ _)
  · exact .inl ⟨_, rfl⟩
  · exact .inr rfl
  · exact .inl (ask_next _ _ _)
  · exact .inl (ask_next _ _ _)
  · exact .inl (ask_next _ _ _)
  · exact .inl (ask_next _ _ _)

/-- A delivery of bytes, a whole word or not, answers a next state (20_memory.md R32). -/
theorem deliver_next (bs : List Byte) (s : State) : ∃ t, deliver bs s = .next t := by
  unfold deliver
  split
  · exact command_next _ _
  · exact ⟨_, rfl⟩

/-- Every turn but the host's answers a next state. -/
theorem takeTurn_next {x : Turn} (hx : x ≠ .host) (s : State) : ∃ t, takeTurn x s = .next t := by
  cases x with
  | word w => exact command_next w s
  | bytes bs => exact deliver_next bs s
  | host => exact absurd rfl hx
  | submit task => exact ⟨_, rfl⟩
  | tick => exact ⟨_, rfl⟩
  | env l r => exact ⟨_, rfl⟩
  | reset => exact ⟨_, rfl⟩

/-- Settles O18: the step is the turn listed, or else the running timer's, or else the host's. -/
theorem everyTurnHasANextState : Obligations.EveryTurnHasANextState := by
  intro s hc
  have listed (x : Turn) (ts : List Turn) (h : s.turns = x :: ts) (hx : x ≠ .host) : ∃ t, step s = .next t := by
    rw [step_turn hc h]
    exact takeTurn_next hx _
  have timer (h : s.turns = []) (hr : s.timerRun = true) : ∃ t, step s = .next t := ⟨_, step_timer hc h hr⟩
  refine ⟨?_, listed, timer⟩
  cases hts : s.turns with
  | nil =>
    cases hr : s.timerRun with
    | true => exact .inl (timer hts hr)
    | false =>
      rw [step_host hc hts hr]
      exact hostTurn_next_or_odd s
  | cons x ts =>
    by_cases hx : x = .host
    · rw [step_turn hc hts, hx]
      exact hostTurn_next_or_odd _
    · exact .inl (listed x ts hts hx)

end Sys2Proof.Machine

/-! ### The stages of the conversion (40_convert.md R60 to R65) -/

namespace Sys2Proof.Machine

/-- Which bound a clamped value meets, if any. -/
theorem clamp_cases (x lo hi : Int) :
    (x < lo ∧ clamp x lo hi = lo) ∨ (lo ≤ x ∧ x ≤ hi ∧ clamp x lo hi = x) ∨
      (lo ≤ x ∧ hi < x ∧ clamp x lo hi = hi) := by
  unfold clamp
  split
  · omega
  · split <;> omega

/-- Clamping keeps the order. -/
theorem clamp_mono {x y lo hi : Int} (h : lo ≤ hi) (hxy : x ≤ y) : clamp x lo hi ≤ clamp y lo hi := by
  have := clamp_cases x lo hi
  have := clamp_cases y lo hi
  omega

/-- Rounding toward zero keeps the order. -/
theorem tdiv_mono {a b : Int} (h : a ≤ b) : tdiv a 256 ≤ tdiv b 256 := by
  have := tdiv_cases a
  have := tdiv_cases b
  omega

/-- Rounding toward zero is odd. -/
theorem tdiv_neg (a : Int) : tdiv (-a) 256 = -tdiv a 256 := by
  have := tdiv_cases a
  have := tdiv_cases (-a)
  omega

/-- The scale stage rounds a non-negative product down and a negative one up (40_convert.md R60). -/
theorem scaled_rounding (s v : Int) :
    (0 ≤ s * v ∧ 256 * scaled s v ≤ s * v ∧ s * v < 256 * scaled s v + 256) ∨
      (s * v < 0 ∧ s * v ≤ 256 * scaled s v ∧ 256 * scaled s v - 256 < s * v) := by
  have := tdiv_cases (s * v)
  unfold scaled
  omega

/-- A sample times a volume (40_convert.md R60). -/
theorem product_range {s v : Int} (hlo : -32768 ≤ s) (hhi : s ≤ 32767) (h0 : 0 ≤ v) (hv : v ≤ 255) :
    -8355840 ≤ s * v ∧ s * v ≤ 8355585 := by
  have low : -32768 * v ≤ s * v := mul_le_mul_of_nonneg_right hlo h0
  have high : s * v ≤ 32767 * v := mul_le_mul_of_nonneg_right hhi h0
  omega

theorem clipped_range (s v : Int) : -128 ≤ clipped s v ∧ clipped s v ≤ 127 :=
  clamp_range (by decide) (scaled s v)

/-- The clip in terms of the product: saturated from each threshold on, and the scaled value between them
(40_convert.md R61). -/
theorem clipped_cases (s v : Int) :
    (s * v ≤ -32768 ∧ clipped s v = -128) ∨
      (-32768 < s * v ∧ s * v < 32512 ∧ clipped s v = scaled s v ∧ -128 < scaled s v ∧ scaled s v < 127) ∨
      (32512 ≤ s * v ∧ clipped s v = 127) := by
  have rounding := scaled_rounding s v
  have clip := clamp_cases (scaled s v) (-128) 127
  unfold clipped
  omega

/-- A product below one step either way is clipped to 0 (40_convert.md R66 item 4). -/
theorem clipped_eq_zero {s v : Int} (hlo : -256 < s * v) (hhi : s * v < 256) : clipped s v = 0 := by
  have rounding := scaled_rounding s v
  have clip := clipped_cases s v
  omega

theorem clipped_mono {s₁ s₂ v : Int} (h0 : 0 ≤ v) (hs : s₁ ≤ s₂) : clipped s₁ v ≤ clipped s₂ v :=
  clamp_mono (by decide) (tdiv_mono (mul_le_mul_of_nonneg_right hs h0))

/-- The clip is odd, but for the one value that two's complement has more on the negative side (40_convert.md R66
item 6). -/
theorem clipped_neg (s v : Int) : clipped (-s) v = -clipped s v ∨
    (clipped s v = -128 ∧ clipped (-s) v = 127) ∨ (clipped s v = 127 ∧ clipped (-s) v = -128) := by
  have odd : scaled (-s) v = -scaled s v := by
    rw [scaled, neg_mul, tdiv_neg, scaled]
  have clip := clamp_cases (scaled s v) (-128) 127
  have clipNeg := clamp_cases (-scaled s v) (-128) 127
  unfold clipped
  rw [odd]
  omega

/-- The product of the code and the period, of which the pulse is the floored quotient (40_convert.md R63). -/
theorem codeProduct_range (c : Params) (s v : Int) :
    0 ≤ unsignedCode s v * c.periodNs ∧ unsignedCode s v * c.periodNs ≤ 255 * c.periodNs := by
  obtain ⟨low, high⟩ := unsignedCode_range s v
  exact ⟨mul_nonneg low (by omega), mul_le_mul_of_nonneg_right high (by omega)⟩

/-- The pulse is the floor of the quotient (40_convert.md R63). -/
theorem pulseNs_floor (c : Params) (s v : Int) :
    256 * pulseNs c s v ≤ unsignedCode s v * c.periodNs ∧
      unsignedCode s v * c.periodNs < 256 * pulseNs c s v + 256 := by
  unfold pulseNs fdiv
  omega

theorem pulseNs_mono (c : Params) {s₁ s₂ v : Int} (h0 : 0 ≤ v) (hs : s₁ ≤ s₂) : pulseNs c s₁ v ≤ pulseNs c s₂ v := by
  have codes : unsignedCode s₁ v ≤ unsignedCode s₂ v := Int.add_le_add_right (clipped_mono h0 hs) 128
  exact Int.ediv_le_ediv (by decide) (mul_le_mul_of_nonneg_right codes (by omega))

/-- Which guard rail a pulse meets, if any (40_convert.md R64). -/
theorem convert_cases (c : Params) (s v : Int) :
    (pulseNs c s v < c.minMarginNs ∧ convert c s v = c.minMarginNs) ∨
      ((c.minMarginNs : Int) ≤ pulseNs c s v ∧ pulseNs c s v ≤ (c.periodNs : Int) - c.minMarginNs ∧
        convert c s v = pulseNs c s v) ∨
      ((c.minMarginNs : Int) ≤ pulseNs c s v ∧ (c.periodNs : Int) - c.minMarginNs < pulseNs c s v ∧
        convert c s v = (c.periodNs : Int) - c.minMarginNs) :=
  clamp_cases _ _ _

theorem convert_mono {c : Params} (hc : legal c) {s₁ s₂ v : Int} (h0 : 0 ≤ v) (hs : s₁ ≤ s₂) :
    convert c s₁ v ≤ convert c s₂ v :=
  clamp_mono (by omega) (pulseNs_mono c h0 hs)

/-- The code 128 is the silence pulse, which keeps both margins (40_convert.md R66 items 2 to 4). -/
theorem convert_silence {c : Params} (hc : legal c) {s v : Int} (h : clipped s v = 0) :
    convert c s v = silenceNs c := by
  have floor := pulseNs_floor c s v
  rw [unsignedCode, h] at floor
  have rails := convert_cases c s v
  unfold silenceNs
  omega

/-- At volume 0 every sample converts to silence (40_convert.md R66 item 2). -/
theorem convert_volume_zero {c : Params} (hc : legal c) (s : Int) : convert c s 0 = silenceNs c :=
  convert_silence hc (clipped_eq_zero (by simp) (by simp))

/-- With the reference margin, any code but 0 gives a pulse that keeps both margins (40_convert.md R64). -/
theorem pulseNs_keeps_reference_margin {c : Params} {s v : Int} (hm : c.minMarginNs = c.periodNs / 256)
    (hcode : unsignedCode s v ≠ 0) :
    (c.minMarginNs : Int) ≤ pulseNs c s v ∧ pulseNs c s v ≤ (c.periodNs : Int) - c.minMarginNs := by
  obtain ⟨low, -⟩ := unsignedCode_range s v
  have least : 1 * (c.periodNs : Int) ≤ unsignedCode s v * c.periodNs :=
    mul_le_mul_of_nonneg_right (by omega) (by omega)
  have product := codeProduct_range c s v
  have floor := pulseNs_floor c s v
  omega

/-! ### The obligations on the conversion -/

/-- Settles O19, by the two directions of rounding. -/
theorem scaleRoundsTowardZero : Obligations.ScaleRoundsTowardZero := by
  intro s v hlo hhi h0 hv
  have product := product_range hlo hhi h0 hv
  have rounding := scaled_rounding s v
  exact ⟨product, by omega, by omega, by omega, by decide⟩

/-- Settles O20, by the three cases of the clip; at volumes 180 and 1 the product is linear in the sample. -/
theorem clipSaturatesAtTheThresholds : Obligations.ClipSaturatesAtTheThresholds := by
  refine ⟨fun s v _ _ _ _ => ?_, fun s _ _ => ?_, fun vol8 imm s => ⟨_, rfl⟩⟩
  · have rounding := scaled_rounding s v
    have clip := clipped_cases s v
    exact ⟨clipped_range s v, by omega, by omega, by omega⟩
  · have clip180 := clipped_cases s 180
    have rounding1 := scaled_rounding s 1
    have clip1 := clipped_cases s 1
    exact ⟨by omega, by omega, by omega, by omega, by omega⟩

/-- Settles O21, by the range of the code and the floor of the quotient. -/
theorem codeAndPulseStayInRange : Obligations.CodeAndPulseStayInRange := by
  intro c s v hc
  have product := codeProduct_range c s v
  obtain ⟨below, above⟩ := pulseNs_floor c s v
  exact ⟨unsignedCode_range s v, rfl, by omega, below, above, by omega,
    Int.ediv_le_ediv (by decide) product.2, by omega⟩

/-- Settles O22, by the three cases of the guard rails. -/
theorem guardRailsKeepTheMargins : Obligations.GuardRailsKeepTheMargins := by
  intro c s v hc
  have rails := convert_cases c s v
  refine ⟨by omega, by omega, by omega, by omega, fun _ hcode => ?_, fun hm hcode => ?_⟩
  · have floor := pulseNs_floor c s v
    rw [hcode] at floor
    omega
  · have kept := pulseNs_keeps_reference_margin hm hcode
    omega

/-- Settles O23: silence is the clipped value 0, and every stage keeps the order. -/
theorem conversionProperties : Obligations.ConversionProperties := by
  intro c hc
  refine ⟨fun s v _ _ _ _ => ?_, convert_volume_zero hc, fun v => ?_, fun s v hlo hhi => ?_,
    fun s₁ s₂ v => convert_mono hc, clipped_neg⟩
  · have rails := convert_cases c s v
    unfold pulseLo pulseHi
    omega
  · exact convert_silence hc (clipped_eq_zero (by simp) (by simp))
  · exact convert_silence hc (clipped_eq_zero hlo hhi)

/-- Settles O24: the pulse register holds the whole conversion, and CONV's word is its opcode and two operands. -/
theorem convAnswersThePulse : Obligations.ConvAnswersThePulse := by
  refine ⟨fun vol8 imm s hc => ⟨_, convertPulse_toNat hc imm vol8, rfl⟩, fun w hw => ?_⟩
  have hop : opField w = 0x10#8 := BitVec.eq_of_toNat_eq ((field_toNat w).1.trans hw)
  exact ⟨midField w, lowField w, decode_eq_ok_iff.2 ⟨rfl, packWord_eq_iff.2 ⟨hop, rfl, rfl⟩⟩⟩

/-! ### The obligations on the emissions (40_convert.md R67 to R71) -/

/-- Settles O25, by the write primitive's two cases. -/
theorem pwmWriteLandsOrFails : Obligations.PwmWriteLandsOrFails := fun p _ =>
  ⟨fun h => pwmWrite_accepted (ch := .left) h p, fun h => pwmWrite_refused (ch := .left) h p,
    fun h => pwmWrite_accepted (ch := .right) h p, fun h => pwmWrite_refused (ch := .right) h p⟩

/-- Settles O26: the gate, then the left channel's input, then the right one's. -/
theorem emitmWritesBothChannels : Obligations.EmitmWritesBothChannels := by
  intro imm s hc
  refine ⟨fun hi => congrArg _ (gated_notReady hi _), fun hi => ?_⟩
  have pulse := convertPulse_toNat hc imm s.vol
  rw [exec_emitm_ready hi]
  refine ⟨_, pulse, fun hvol => ?_, fun hl hr => ?_, fun hl hr => ?_, fun hl => ?_⟩
  · rw [hvol] at pulse ⊢
    exact Int.ofNat.inj (pulse.trans (convert_volume_zero hc _))
  · simp [emitBoth_leftAccepted hl, hr, pulseData]
  · simp [emitBoth_leftAccepted hl, hr]
  · simp [emitBoth_leftRefused hl]

/-- Settles O27: the gate, then the left channel's input. -/
theorem emitlWritesTheLeftChannel : Obligations.EmitlWritesTheLeftChannel := by
  intro imm s hc
  refine ⟨fun hi => congrArg _ (gated_notReady hi _), fun hi => ?_⟩
  rw [exec_emitl_ready hi, emitChannel_left]
  refine ⟨_, convertPulse_toNat hc imm s.vol, fun hl => ?_, fun hl => ?_⟩
  · simp [hl, pulseData]
  · simp [hl]

/-- Settles O28: the gate, then the right channel's input. -/
theorem emitrWritesTheRightChannel : Obligations.EmitrWritesTheRightChannel := by
  intro imm s hc
  refine ⟨fun hi => congrArg _ (gated_notReady hi _), fun hi => ?_⟩
  rw [exec_emitr_ready hi, emitChannel_right]
  refine ⟨_, convertPulse_toNat hc imm s.vol, fun hr => ?_, fun hr => ?_⟩
  · simp [hr, pulseData]
  · simp [hr]

/-! ### What an emission neither reads nor writes -/

section Ramp

variable (m : Bool) (f : Fsm) (q : BitVec 16) (sv : Byte)

/-- The state with other values of MUTED, FSM, PROGRESS and START_VOL. -/
def withRamp (s : State) : State := { s with muted := m, fsm := f, progress := q, startVol := sv }

theorem emitChannel_withRamp (ch : Channel) (p : Pulse) (s : State) :
    emitChannel ch p (withRamp m f q sv s) = withRamp m f q sv (emitChannel ch p s) := by
  cases ch with
  | left => rw [emitChannel_left, emitChannel_left]; rfl
  | right => rw [emitChannel_right, emitChannel_right]; rfl

theorem emitBoth_withRamp (p : Pulse) (s : State) :
    emitBoth p (withRamp m f q sv s) = withRamp m f q sv (emitBoth p s) := by
  cases hl : s.pwmOkL with
  | true => rw [emitBoth_leftAccepted hl, emitBoth_leftAccepted (s := withRamp m f q sv s) hl]; rfl
  | false => rw [emitBoth_leftRefused hl, emitBoth_leftRefused (s := withRamp m f q sv s) hl]; rfl

/-- The gate reads INITED only, and its own answer leaves the ramp alone. -/
theorem gated_withRamp {body : State → State} {s : State}
    (h : body (withRamp m f q sv s) = withRamp m f q sv (body s)) :
    gated body (withRamp m f q sv s) = withRamp m f q sv (gated body s) := by
  cases hi : s.inited with
  | true => rw [gated_ready hi, gated_ready (s := withRamp m f q sv s) hi, h]
  | false => rw [gated_notReady hi, gated_notReady (s := withRamp m f q sv s) hi]; rfl

end Ramp

/-- Settles O29, one emission at a time. -/
theorem emissionIgnoresMuteAndRamp : Obligations.EmissionIgnoresMuteAndRamp := by
  rintro i imm (rfl | rfl | rfl) s t m f q sv h
  · cases h
    exact congrArg _ (gated_withRamp m f q sv (emitBoth_withRamp m f q sv _ s))
  · cases h
    exact congrArg _ (gated_withRamp m f q sv (emitChannel_withRamp m f q sv _ _ s))
  · cases h
    exact congrArg _ (gated_withRamp m f q sv (emitChannel_withRamp m f q sv _ _ s))

end Sys2Proof.Machine

/-! ### The ramp commands (41_ramp.md R72 to R76), for both directions at once -/

namespace Sys2Proof.Machine

theorem exec_dirCommand (dir : Dir) (s : State) : exec (dirCommand dir) s = .next (gated (rampRequest dir) s) := by
  cases dir <;> rfl

/-- Before INIT a ramp request is refused (42_control.md R87). -/
theorem exec_dirCommand_notReady {s : State} (hi : s.inited = false) (dir : Dir) :
    exec (dirCommand dir) s = .next (respond .errNotReady 0#32 s) := by
  rw [exec_dirCommand, gated_notReady hi]

/-- A request in its own target end state, or in a ramp to it, is a no-op (41_ramp.md R72). -/
theorem exec_dirCommand_noop {s : State} {dir : Dir} (hi : s.inited = true) (hm : s.muted = dirMuted dir) :
    exec (dirCommand dir) s = .next (respond .ok 0#32 s) := by
  rw [exec_dirCommand, gated_ready hi, rampRequest, if_pos hm]

/-- Any other request starts a ramp (41_ramp.md R75). -/
theorem exec_dirCommand_starts {s : State} {dir : Dir} (hi : s.inited = true) (hm : s.muted ≠ dirMuted dir) :
    exec (dirCommand dir) s = .next (respond .ok 1#32 (rampStart dir s)) := by
  rw [exec_dirCommand, gated_ready hi, rampRequest, if_neg hm]

theorem dirFsm_ne_idle (dir : Dir) : dirFsm dir ≠ .idle := by cases dir <;> decide

/-- Outside Idle the controller is in a ramp of some direction. -/
theorem exists_dirFsm {f : Fsm} (h : f ≠ .idle) : ∃ dir, f = dirFsm dir := by
  cases f with
  | idle => exact absurd rfl h
  | rampingToMute => exact ⟨.toMute, rfl⟩
  | rampingToUnmute => exact ⟨.toUnmute, rfl⟩

/-- While a ramp runs, MUTED is as its start set it (10_state.md R20 item 5). -/
theorem Invariant.ramp_muted {s : State} {dir : Dir} (h : Invariant s) (hf : s.fsm = dirFsm dir) :
    s.muted = dirMuted dir := by
  cases dir with
  | toMute => exact h.toMute_muted hf
  | toUnmute => exact h.toUnmute_unmuted hf

/-- While a ramp runs, so does the timer (10_state.md R20 item 4). -/
theorem Invariant.ramp_timerRun {s : State} {dir : Dir} (h : Invariant s) (hf : s.fsm = dirFsm dir) :
    s.timerRun = true :=
  h.timer_iff.2 (hf ▸ dirFsm_ne_idle dir)

/-- In Idle the timer is stopped (10_state.md R20 item 4). -/
theorem Invariant.idle_timerRun {s : State} (h : Invariant s) (hf : s.fsm = .idle) : s.timerRun = false :=
  Bool.eq_false_iff.2 fun hr => h.timer_iff.1 hr hf

/-- The row of the state table for one request (41_ramp.md R72). -/
theorem dirCommand_table {s : State} (h : Invariant s) (hi : s.inited = true) (dir : Dir) :
    ∃ t, exec (dirCommand dir) s = .next t ∧ t.muted = dirMuted dir ∧
      (s.muted = dirMuted dir → t.fsm = s.fsm ∧ t.progress = s.progress ∧ t.startVol = s.startVol) ∧
      (s.muted ≠ dirMuted dir → t.fsm = dirFsm dir ∧ t.progress = 0#16 ∧ t.startVol = s.vol) ∧
      t.vol = s.vol ∧ (t.timerRun = true ↔ t.fsm ≠ .idle) := by
  by_cases hm : s.muted = dirMuted dir
  · exact ⟨_, exec_dirCommand_noop hi hm, hm, fun _ => ⟨rfl, rfl, rfl⟩, fun hne => absurd hm hne, rfl, h.timer_iff⟩
  · refine ⟨_, exec_dirCommand_starts hi hm, ?_⟩
    simp [rampStart_eq, hm, dirFsm_ne_idle]

/-- The stored volume is the request clamped to 0..MAX_VOLUME (41_ramp.md R76). -/
theorem setvolValue_toNat {c : Params} (hc : legal c) (imm : Imm16) :
    ((setvolValue c imm).toNat : Int) = max 0 (min (sext16 imm) c.maxVolume) := by
  have cut := clamp_cases (sext16 imm) 0 c.maxVolume
  rw [setvolValue, BitVec.toNat_ofInt]
  omega

/-- Past the gate SETVOL writes VOL alone (41_ramp.md R76). -/
theorem exec_setvol_ready {s : State} (h : s.inited = true) (imm : Imm16) :
    exec (.setvol imm) s = .next { s with
      vol := setvolValue s.cfg imm
      responses := s.responses ++ [⟨.ok, (setvolValue s.cfg imm).setWidth 32⟩] } :=
  congrArg _ (gated_ready h _)

/-- Settles O34, by the three cases of a request. -/
theorem muteStartsARampOrDoesNothing : Obligations.MuteStartsARampOrDoesNothing := by
  intro s
  refine ⟨fun hi => exec_dirCommand_notReady hi .toMute, exec_dirCommand_noop (dir := .toMute), fun hi hm => ?_⟩
  have started := exec_dirCommand_starts (dir := .toMute) hi (by simp [hm, dirMuted])
  rwa [rampStart_eq] at started

/-- Settles O35, by the three cases of a request. -/
theorem unmuteStartsARampOrDoesNothing : Obligations.UnmuteStartsARampOrDoesNothing := by
  intro s
  refine ⟨fun hi => exec_dirCommand_notReady hi .toUnmute, exec_dirCommand_noop (dir := .toUnmute), fun hi hm => ?_⟩
  have started := exec_dirCommand_starts (dir := .toUnmute) hi (by simp [hm, dirMuted])
  rwa [rampStart_eq] at started

/-- Settles O36: the gate, then the clamp. -/
theorem setvolStoresTheClampedVolume : Obligations.SetvolStoresTheClampedVolume := fun imm _ hc =>
  ⟨fun hi => congrArg _ (gated_notReady hi _),
    fun hi => ⟨_, setvolValue_toNat hc imm, exec_setvol_ready hi imm⟩⟩

/-- Settles O37: the pairs are those of the invariant, and each request has its row of the table. -/
theorem requestsFollowTheStateTable : Obligations.RequestsFollowTheStateTable := by
  intro s h hi
  refine ⟨?_, ?_, ?_⟩
  · cases hf : s.fsm with
    | idle => cases s.muted <;> simp
    | rampingToMute => simp [h.toMute_muted hf]
    | rampingToUnmute => simp [h.toUnmute_unmuted hf]
  · simpa [dirMuted, dirFsm, dirCommand] using dirCommand_table h hi .toMute
  · simpa [dirMuted, dirFsm, dirCommand] using dirCommand_table h hi .toUnmute

/-! ### The interpolation (41_ramp.md R77, R82) -/

/-- A share `p / n` of a volume, rounded down, is at most the volume. -/
theorem share_le {n p : Nat} (hp : p ≤ n) (v : Nat) : v * p / n ≤ v :=
  Nat.div_le_of_le_mul (Nat.mul_comm n v ▸ Nat.mul_le_mul_left v hp)

/-- From one step to the next a share grows by the floor of the mean step or one more (41_ramp.md R82 item 6). -/
theorem share_succ {n : Nat} (hn : 0 < n) (v p : Nat) :
    v * (p + 1) / n = v * p / n + v / n ∨ v * (p + 1) / n = v * p / n + v / n + 1 := by
  rw [Nat.mul_succ, Nat.add_div hn]
  split <;> simp

/-- The volume at which a ramp of this direction ends (41_ramp.md R77). -/
def dirTarget (c : Params) : Dir → Nat
  | .toMute => 0
  | .toUnmute => c.maxVolume

/-- The interpolation is exact at the last step. -/
theorem rampVolume_last {c : Params} (hc : legal c) (dir : Dir) (start : Nat) :
    rampVolume c dir start c.stepCount = dirTarget c dir := by
  have hn : 0 < c.stepCount := hc.2.1.1
  cases dir with
  | toMute => simp [rampVolume_toMute, Nat.mul_div_cancel _ hn, dirTarget]
  | toUnmute => simp [rampVolume_toUnmute, Nat.mul_div_cancel _ hn, dirTarget]

/-- Settles O38, by the inequalities of the floor. -/
theorem rampVolumeInterpolates : Obligations.RampVolumeInterpolates := by
  intro c start p hc _ _ hp
  have ⟨⟨_, hmax⟩, ⟨hn, hcount⟩, _⟩ := hc
  refine ⟨⟨_, rampVolume_toUnmute c start p, share_le hp _, Nat.mul_div_le _ _, Nat.lt_mul_div_succ _ hn⟩,
    ⟨_, rampVolume_toMute c start p, share_le hp _, Nat.mul_div_le _ _, Nat.lt_mul_div_succ _ hn⟩,
    rampVolume_last hc .toUnmute start, rampVolume_last hc .toMute start, fun _ => rfl, ?_⟩
  calc c.maxVolume * p ≤ 255 * 65535 := Nat.mul_le_mul hmax (hp.trans hcount)
    _ < 2 ^ 24 := by decide

/-- Settles O39, by the growth of a share. -/
theorem rampVolumesMoveInEvenSteps : Obligations.RampVolumesMoveInEvenSteps := by
  intro c start p hc hs _ hp
  have hn : 0 < c.stepCount := hc.2.1.1
  have up := share_succ hn c.maxVolume p
  have down := share_succ hn start p
  refine ⟨?_, ?_, rampVolume_range hs hp.le .toUnmute, rampVolume_range hs hp.le .toMute⟩
  · rw [rampVolume_toUnmute, rampVolume_toUnmute]
    omega
  · rw [rampVolume_toMute, rampVolume_toMute]
    omega

/-! ### One tick of a running ramp (41_ramp.md R78 to R80) -/

/-- The volume that the next tick of a ramp stores. -/
def tickVolume (dir : Dir) (s : State) : Byte :=
  BitVec.ofInt 8 (rampVolume s.cfg dir s.startVol.toNat (s.progress.toNat + 1))

/-- The register holds exactly what the interpolation gives. -/
theorem tickVolume_toNat {s : State} (hc : legal s.cfg) (h : Invariant s) (dir : Dir) :
    ((tickVolume dir s).toNat : Int) = rampVolume s.cfg dir s.startVol.toNat (s.progress.toNat + 1) := by
  obtain ⟨low, high⟩ := rampVolume_range h.startVol_le (p := s.progress.toNat + 1) h.progress_lt dir
  rw [tickVolume, BitVec.toNat_ofInt]
  omega

theorem tickVolume_last {s : State} (hc : legal s.cfg) (h : Invariant s) (dir : Dir)
    (hp : s.progress.toNat + 1 = s.cfg.stepCount) : (tickVolume dir s).toNat = dirTarget s.cfg dir := by
  have held := tickVolume_toNat hc h dir
  rw [hp, rampVolume_last hc] at held
  exact Int.ofNat.inj held

theorem timerTurn_ramp {s : State} {dir : Dir} (hr : s.timerRun = true) (hf : s.fsm = dirFsm dir) :
    timerTurn s = rampTick dir s := by
  cases dir <;> simp [timerTurn, hr, tick, hf, dirFsm]

section Ramping

variable {s : State} {dir : Dir} (hr : s.timerRun = true) (hf : s.fsm = dirFsm dir)
include hr hf

/-- Before its last step a tick moves VOL and PROGRESS only. -/
theorem timerTurn_midRamp (hp : s.progress.toNat + 1 ≠ s.cfg.stepCount) :
    timerTurn s = { s with vol := tickVolume dir s, progress := BitVec.ofNat 16 (s.progress.toNat + 1) } := by
  rw [timerTurn_ramp hr hf]
  exact if_neg hp

/-- The last step stores its volume and ends the ramp. -/
theorem timerTurn_lastStep (hp : s.progress.toNat + 1 = s.cfg.stepCount) :
    timerTurn s = rampEnd dir { s with vol := tickVolume dir s } := by
  rw [timerTurn_ramp hr hf]
  exact if_pos hp

end Ramping

@[simp] theorem rampEnd_fsm (dir : Dir) (s : State) : (rampEnd dir s).fsm = .idle := by cases dir <;> rfl

@[simp] theorem rampEnd_vol (dir : Dir) (s : State) : (rampEnd dir s).vol = s.vol := by
  cases dir with
  | toMute => rw [rampEnd_toMute]
  | toUnmute => rw [rampEnd_toUnmute]

/-- Every tick of a ramp, the last one too, leaves the interpolated volume. -/
theorem timerTurn_vol {s : State} {dir : Dir} (hr : s.timerRun = true) (hf : s.fsm = dirFsm dir) :
    (timerTurn s).vol = tickVolume dir s := by
  by_cases hp : s.progress.toNat + 1 = s.cfg.stepCount
  · rw [timerTurn_lastStep hr hf hp, rampEnd_vol]
  · rw [timerTurn_midRamp hr hf hp]

/-- Below STEP_COUNT the next step number fits PROGRESS. -/
theorem nextProgress_toNat {s : State} (hc : legal s.cfg) (hp : s.progress.toNat + 1 < s.cfg.stepCount) :
    (BitVec.ofNat 16 (s.progress.toNat + 1)).toNat = s.progress.toNat + 1 := by
  rw [BitVec.toNat_ofNat]
  omega

/-- Settles O40: a tick before the last step, and the last step of each direction. -/
theorem tickTakesOneRampStep : Obligations.TickTakesOneRampStep := by
  refine ⟨fun s => ⟨fun hr => by simp [timerTurn, hr], fun hf => by simp [tick, hf]⟩, fun s hc h => ⟨?_, ?_, ?_⟩⟩
  · intro hne hp
    obtain ⟨dir, hf⟩ := exists_dirFsm hne
    have held := tickVolume_toNat hc h dir
    have counted := nextProgress_toNat hc hp
    refine ⟨_, _, counted, fun hu => ?_, fun hm => ?_, timerTurn_midRamp (h.ramp_timerRun hf) hf hp.ne⟩
    · cases dir with
      | toMute => simp [hf, dirFsm] at hu
      | toUnmute =>
        rw [rampVolume_toUnmute] at held
        rw [counted]
        exact Int.ofNat.inj held
    · cases dir with
      | toMute =>
        rw [rampVolume_toMute] at held
        rw [counted]
        omega
      | toUnmute => simp [hf, dirFsm] at hm
  · intro hf hp
    have last := timerTurn_lastStep (dir := .toUnmute) (h.ramp_timerRun (dir := .toUnmute) hf) hf hp
    rw [rampEnd_toUnmute] at last
    exact ⟨_, tickVolume_last hc h .toUnmute hp, last⟩
  · intro hf hp
    have last := timerTurn_lastStep (dir := .toMute) (h.ramp_timerRun (dir := .toMute) hf) hf hp
    have silent : tickVolume .toMute s = 0#8 := BitVec.eq_of_toNat_eq (tickVolume_last hc h .toMute hp)
    rw [rampEnd_toMute, silent] at last
    exact ⟨_, silencePulse_toNat hc, last⟩

/-! ### Silence actions in the trace (41_ramp.md R80) -/

@[simp] theorem silences_respond (code : Code) (data : Word) (s : State) :
    silences (respond code data s) = silences s := rfl

@[simp] theorem silences_pwmWrite (ch : Channel) (p : Pulse) (s : State) :
    silences (pwmWrite ch p s) = silences s := by
  unfold pwmWrite silences
  cases ch <;> split <;> simp [setPwm]

@[simp] theorem silences_emitChannel (ch : Channel) (p : Pulse) (s : State) :
    silences (emitChannel ch p s) = silences s := by
  unfold emitChannel
  split <;> simp

@[simp] theorem silences_emitBoth (p : Pulse) (s : State) : silences (emitBoth p s) = silences s := by
  unfold emitBoth
  split <;> simp

@[simp] theorem silences_rampStart (dir : Dir) (s : State) : silences (rampStart dir s) = silences s := by
  rw [rampStart_eq]
  cases h : s.timerRun <;> simp [silences]

@[simp] theorem silences_rampRequest (dir : Dir) (s : State) : silences (rampRequest dir s) = silences s := by
  unfold rampRequest
  split <;> simp

@[simp] theorem silences_initDevice (s : State) : silences (initDevice s) = silences s := by
  unfold initDevice
  split
  · exact (silences_pwmWrite _ _ _).trans (silences_pwmWrite _ _ _)
  · rfl

theorem silences_gated {body : State → State} {s : State} (h : silences (body s) = silences s) :
    silences (gated body s) = silences s := by
  unfold gated
  split
  · exact h
  · rfl

/-- No command appends a silence action. -/
theorem exec_silences {i : Instr} {s t : State} (h : exec i s = .next t) : silences t = silences s := by
  cases i with
  | init =>
    cases h
    split
    · rfl
    · exact silences_initDevice s
  | rdst => cases h; rfl
  | rdcfg idx =>
    cases h
    split <;> rfl
  | conv vol8 imm16 => cases h; rfl
  | emitm imm16 => cases h; exact silences_gated (silences_emitBoth _ s)
  | emitl imm16 => cases h; exact silences_gated (silences_emitChannel _ _ s)
  | emitr imm16 => cases h; exact silences_gated (silences_emitChannel _ _ s)
  | mute => cases h; exact silences_gated (silences_rampRequest _ s)
  | unmute => cases h; exact silences_gated (silences_rampRequest _ s)
  | setvol imm16 => cases h; exact silences_gated rfl

theorem command_silences {w : Word} {s t : State} (h : command w s = .next t) : silences t = silences s := by
  unfold command at h
  split at h
  · exact exec_silences h
  · cases h
    rfl

theorem HostMove.silences_eq {s t : State} (h : HostMove s t) : silences t = silences s :=
  h.elim (P := fun u => silences u = silences s) (fun _ => rfl)
    (fun _ g _ u hu => command_silences (s := { s with host := g }) (t := u) hu)

/-- How many silence actions the end of a ramp appends: one for a mute ramp (41_ramp.md R80). -/
def dirSilences : Dir → Nat
  | .toMute => 1
  | .toUnmute => 0

theorem silences_rampEnd (dir : Dir) (s : State) : silences (rampEnd dir s) = silences s + dirSilences dir := by
  cases dir with
  | toMute =>
    rw [rampEnd_toMute]
    cases s.pwmOkL <;> cases s.pwmOkR <;> simp [silences, dirSilences]
  | toUnmute => simp [rampEnd_toUnmute, silences, dirSilences]

/-- A tick now would be the last one of a mute ramp. -/
def EndsMuteRamp (s : State) : Prop :=
  s.timerRun = true ∧ s.fsm = .rampingToMute ∧ s.progress.toNat + 1 = s.cfg.stepCount

theorem silences_timerTurn_of_endsMuteRamp {s : State} (h : EndsMuteRamp s) :
    silences (timerTurn s) = silences s + 1 := by
  obtain ⟨hr, hf, hp⟩ := h
  rw [timerTurn_lastStep (dir := .toMute) hr hf hp]
  exact silences_rampEnd .toMute _

theorem silences_timerTurn_of_not_endsMuteRamp {s : State} (h : ¬ EndsMuteRamp s) :
    silences (timerTurn s) = silences s := by
  rcases timerTurn_cases s with ⟨-, same⟩ | ⟨dir, v, hr, hf, -, ⟨-, going⟩ | ⟨hp, last⟩⟩
  · rw [same]
  · rw [going]
    rfl
  · cases dir with
    | toMute => exact absurd ⟨hr, hf, hp⟩ h
    | toUnmute =>
      rw [last]
      exact silences_rampEnd .toUnmute _

/-- The running timer has the turn when it is listed next or none is. -/
theorem step_timersTurn {s : State} (hc : legal s.cfg) (h : s.turns = [] ∨ s.turns.head? = some .tick)
    (hr : s.timerRun = true) : step s = .next (timerTurn { s with turns := s.turns.tail }) := by
  cases hts : s.turns with
  | nil =>
    have same : { s with turns := [] } = s := by rw [← hts]
    rw [step_timer hc hts hr, List.tail_nil, same]
  | cons x ts =>
    obtain rfl : x = .tick := by simpa [hts] using h
    exact step_tick hc hts

/-- Settles O41: commands and moves of the host append none, the timer one at the end of a mute ramp. -/
theorem silenceOncePerCompletedMuteRamp : Obligations.SilenceOncePerCompletedMuteRamp := by
  intro s t hstep hreset
  constructor
  · rintro ⟨hturn, hends⟩
    rw [step_timersTurn (legal_of_step hstep) hturn hends.1] at hstep
    cases hstep
    exact silences_timerTurn_of_endsMuteRamp (s := { s with turns := s.turns.tail }) hends
  · intro hnot
    obtain ⟨-, ts, ⟨w, hw⟩ | rfl | hhost | ⟨hturn, rfl⟩ | ⟨l, r, rfl⟩ | ⟨hr, -⟩⟩ := step_cases hstep
    · exact command_silences (s := { s with turns := ts }) hw
    · rfl
    · exact hhost.silences_eq
    · exact silences_timerTurn_of_not_endsMuteRamp (s := { s with turns := ts }) fun hends => hnot ⟨hturn, hends⟩
    · rfl
    · exact absurd hr hreset

/-! ### A whole ramp (41_ramp.md R82) -/

/-- A ramp of this direction that owes `k` ticks and will leave `total` silence actions in the trace; with no tick owed
it has ended on its target. -/
structure OwesTicks (c : Params) (dir : Dir) (total k : Nat) (s : State) : Prop where
  cfg : s.cfg = c
  invariant : Invariant s
  inited : s.inited = true
  muted : s.muted = dirMuted dir
  running : 0 < k →
    s.fsm = dirFsm dir ∧ s.progress.toNat + k = c.stepCount ∧ silences s + dirSilences dir = total
  ended : k = 0 → s.fsm = .idle ∧ s.vol.toNat = dirTarget c dir ∧ silences s = total

section Ramp

variable {c : Params} {dir : Dir} {total k : Nat} {s : State}

/-- The ramp neither reads nor writes the responses and the pending turns. -/
theorem OwesTicks.withSurroundings (h : OwesTicks c dir total k s) (rs : List Response) (ts : List Turn) :
    OwesTicks c dir total k { s with responses := rs, turns := ts } :=
  { h with invariant := h.invariant.withSurroundings _ _ rs _ ts _ }

/-- A request that starts a ramp owes STEP_COUNT ticks (90_conflicts.md C3). -/
theorem owesTicks_rampStart (hc : legal s.cfg) (h : Invariant s) (hi : s.inited = true) (dir : Dir) :
    OwesTicks s.cfg dir (silences s + dirSilences dir) s.cfg.stepCount (respond .ok 1#32 (rampStart dir s)) where
  cfg := (rampStart_sameSurroundings dir s).cfg
  invariant := (h.rampStart hi dir).withSurroundings _ _ _ _ _ _
  inited := by simpa [rampStart_eq] using hi
  muted := by simp [rampStart_eq]
  running := fun _ => ⟨by simp [rampStart_eq], by simp [rampStart_eq], by simp⟩
  ended := fun h0 => absurd h0 (Nat.ne_of_gt hc.2.1.1)

/-- A tick pays one owed tick. -/
theorem OwesTicks.tick (hc : legal c) (h : OwesTicks c dir total (k + 1) s) :
    OwesTicks c dir total k (timerTurn s) := by
  obtain ⟨rfl, hinv, hi, hm, hrun, -⟩ := h
  obtain ⟨hf, hp, hs⟩ := hrun k.succ_pos
  have hr := hinv.ramp_timerRun hf
  obtain ⟨hcfg, -, hmuted, hinited, -⟩ := timerTurn_frame s
  refine ⟨hcfg, hinv.timerTurn hc, hinited.trans hi, hmuted.trans hm, fun hk => ?_, fun hk => ?_⟩
  · have going := timerTurn_midRamp hr hf (by omega)
    have counted := nextProgress_toNat hc (s := s) (by omega)
    rw [going]
    exact ⟨hf, by rw [counted]; omega, hs⟩
  · subst hk
    rw [timerTurn_lastStep hr hf hp, rampEnd_fsm, rampEnd_vol, silences_rampEnd]
    exact ⟨rfl, tickVolume_last hc hinv dir hp, hs⟩

/-- Left alone, the running timer pays the owed ticks one a step. -/
theorem OwesTicks.run_timer (hc : legal c) : ∀ (j : Nat) {s : State}, OwesTicks c dir total (k + j) s →
    s.turns = [] → ∃ t, run j s = .next t ∧ OwesTicks c dir total k t := by
  intro j
  induction j with
  | zero => exact fun h _ => ⟨_, run_zero _, h⟩
  | succ j ih =>
    intro s h hts
    obtain ⟨hf, -⟩ := h.running (Nat.succ_pos _)
    have ticked := step_timer (h.cfg ▸ hc) hts (h.invariant.ramp_timerRun hf)
    obtain ⟨-, -, -, -, -, -, -, hturns, -⟩ := timerTurn_frame s
    rw [run_succ j ticked]
    exact ih (h.tick hc) (hturns.trans hts)

theorem dirCommand_wellFormed (dir : Dir) : (dirCommand dir).wellFormed = true := by cases dir <;> rfl

/-- Ticks pay what is owed; further requests of the same direction are no-ops, before the end and after it. -/
theorem OwesTicks.run_turns (hc : legal c) : ∀ (l : List Turn) {s : State},
    OwesTicks c dir total (l.count .tick) s → s.turns = l →
    (∀ x ∈ l, x = .tick ∨ x = .word (encode (dirCommand dir))) →
    ∃ t, run l.length s = .next t ∧ OwesTicks c dir total 0 t := by
  intro l
  induction l with
  | nil => exact fun h _ _ => ⟨_, run_zero _, h⟩
  | cons x l ih =>
    intro s h hts hl
    have hcs : legal s.cfg := h.cfg ▸ hc
    obtain ⟨hx, hrest⟩ := List.forall_mem_cons.1 hl
    rcases hx with rfl | rfl
    · have ticked := step_tick hcs hts
      rw [timerTurn_withTurns] at ticked
      rw [List.count_cons_self] at h
      rw [List.length_cons, run_succ _ ticked]
      exact ih ((h.tick hc).withSurroundings _ l) rfl hrest
    · have answered := (step_word hcs hts).trans
        ((command_legal (decode_encode (dirCommand_wellFormed dir)) _).trans (exec_dirCommand_noop h.inited h.muted))
      rw [List.count_cons_of_ne (by simp)] at h
      rw [List.length_cons, run_succ _ answered]
      exact ih (h.withSurroundings _ l) rfl hrest

/-- A request that starts a ramp, presented as a word. -/
theorem step_request {ts : List Turn} (hc : legal s.cfg) (hi : s.inited = true) (hm : s.muted ≠ dirMuted dir)
    (hts : s.turns = .word (encode (dirCommand dir)) :: ts) :
    step s = .next (respond .ok 1#32 (rampStart dir { s with turns := ts })) :=
  (step_word hc hts).trans
    ((command_legal (decode_encode (dirCommand_wellFormed dir)) _).trans (exec_dirCommand_starts hi hm))

/-- One request and STEP_COUNT ticks, with any further requests among them, are a whole ramp (41_ramp.md R82). -/
theorem run_request_ticks {l : List Turn} (hc : legal s.cfg) (h : Invariant s) (hi : s.inited = true)
    (hm : s.muted ≠ dirMuted dir) (hts : s.turns = .word (encode (dirCommand dir)) :: l)
    (hl : ∀ x ∈ l, x = .tick ∨ x = .word (encode (dirCommand dir))) (hcount : l.count .tick = s.cfg.stepCount) :
    ∃ t, run (l.length + 1) s = .next t ∧ OwesTicks s.cfg dir (silences s + dirSilences dir) 0 t := by
  have owed := owesTicks_rampStart (s := { s with turns := l }) hc (h.withSurroundings _ _ _ _ l _) hi dir
  rw [run_succ _ (step_request hc hi hm hts)]
  refine OwesTicks.run_turns hc l (hcount ▸ owed) ?_ hl
  rw [respond_turns, (rampStart_sameSurroundings _ _).turns]

end Ramp

/-- The target of a running ramp is that of its direction. -/
theorem rampTarget_of_ramp {s : State} {dir : Dir} (hf : s.fsm = dirFsm dir) : rampTarget s = dirTarget s.cfg dir := by
  cases dir <;> simp [rampTarget, hf, dirFsm, dirTarget]

theorem dirSilences_of_ramp {s : State} {dir : Dir} (hf : s.fsm = dirFsm dir) :
    dirSilences dir = if s.fsm = .rampingToMute then 1 else 0 := by
  cases dir <;> simp [hf, dirFsm, dirSilences]

/-- Settles O42: the ramp owes STEP_COUNT - PROGRESS ticks, and the timer takes them one a step. -/
theorem runningRampEndsAfterTheOwedTicks : Obligations.RunningRampEndsAfterTheOwedTicks := by
  intro s hc h hts hr
  obtain ⟨dir, hf⟩ := exists_dirFsm (h.timer_iff.1 hr)
  have hlt := h.progress_lt
  have owed (k j : Nat) (hkj : s.progress.toNat + (k + j) = s.cfg.stepCount) :
      OwesTicks s.cfg dir (silences s + dirSilences dir) (k + j) s :=
    ⟨rfl, h, h.timer_inited hr, h.ramp_muted hf, fun _ => ⟨hf, hkj, rfl⟩, by omega⟩
  constructor
  · intro j hj
    obtain ⟨t, hrun, ht⟩ := (owed (s.cfg.stepCount - s.progress.toNat - j) j (by omega)).run_timer hc j hts
    obtain ⟨hft, -⟩ := ht.running (by omega)
    exact ⟨t, hrun, hft.trans hf.symm, ht.invariant.ramp_timerRun hft⟩
  · obtain ⟨t, hrun, ht⟩ := (owed 0 _ (by omega)).run_timer hc (s.cfg.stepCount - s.progress.toNat) hts
    obtain ⟨hidle, hvol, hsil⟩ := ht.ended rfl
    rw [dirSilences_of_ramp hf] at hsil
    exact ⟨t, hrun, hidle, ht.invariant.idle_timerRun hidle, ht.invariant.idle_progress hidle,
      hvol.trans (rampTarget_of_ramp hf).symm, ht.muted.trans (h.ramp_muted hf).symm, hsil⟩

/-- Settles O43: a whole mute ramp. -/
theorem muteRampEndsSilent : Obligations.MuteRampEndsSilent := by
  intro s l hc h hi _ hm hts hl hcount
  obtain ⟨t, hrun, ht⟩ := run_request_ticks (dir := .toMute) hc h hi (by simp [hm, dirMuted]) hts hl hcount
  obtain ⟨hidle, hvol, hsil⟩ := ht.ended rfl
  exact ⟨t, hrun, hidle, BitVec.eq_of_toNat_eq hvol, ht.muted, ht.invariant.idle_timerRun hidle,
    ht.invariant.idle_progress hidle, hsil⟩

/-- Settles O44: a whole unmute ramp. -/
theorem unmuteRampEndsAtFullVolume : Obligations.UnmuteRampEndsAtFullVolume := by
  intro s l hc h hi _ hm hts hl hcount
  obtain ⟨t, hrun, ht⟩ := run_request_ticks (dir := .toUnmute) hc h hi (by simp [hm, dirMuted]) hts hl hcount
  obtain ⟨hidle, hvol, hsil⟩ := ht.ended rfl
  exact ⟨t, hrun, hidle, hvol, ht.muted, ht.invariant.idle_timerRun hidle, ht.invariant.idle_progress hidle, hsil⟩

/-! ### Requests and SETVOL during a ramp (41_ramp.md R83, R84) -/

/-- A request that turns a ramp round does not start the timer again. -/
theorem rampStart_of_timerRun {s : State} (hr : s.timerRun = true) (dir : Dir) :
    rampStart dir s =
      { s with startVol := s.vol, progress := 0#16, muted := dirMuted dir, fsm := dirFsm dir } := by
  simp [rampStart, startTimer, hr]

/-- A request that starts a ramp, and the tick after it. -/
theorem run_request_tick {s : State} {dir : Dir} {ts : List Turn} (hc : legal s.cfg) (hi : s.inited = true)
    (hm : s.muted ≠ dirMuted dir) (hts : s.turns = .word (encode (dirCommand dir)) :: .tick :: ts) :
    run 2 s = .next { timerTurn (respond .ok 1#32 (rampStart dir s)) with turns := ts } := by
  rw [run_succ 1 (step_request hc hi hm hts), rampStart_eq, rampStart_eq, ← timerTurn_withTurns]
  exact run_succ 0 (step_tick hc rfl)

/-- The first tick of a ramp. -/
theorem timerTurn_firstStep {s : State} {dir : Dir} (h : Invariant s) (hc : legal s.cfg) (hf : s.fsm = dirFsm dir)
    (hp : s.progress = 0#16) :
    ((timerTurn s).vol.toNat : Int) = rampVolume s.cfg dir s.startVol.toNat 1 ∧
      (dir = .toUnmute → silences (timerTurn s) = silences s) ∧
      (1 < s.cfg.stepCount →
        (timerTurn s).fsm = dirFsm dir ∧ (timerTurn s).progress = 1#16 ∧ (timerTurn s).events = s.events) := by
  have hr := h.ramp_timerRun hf
  have stepNumber : s.progress.toNat + 1 = 1 := by rw [hp]; rfl
  refine ⟨?_, ?_, fun hn => ?_⟩
  · rw [timerTurn_vol hr hf, tickVolume_toNat hc h, stepNumber]
  · rintro rfl
    refine silences_timerTurn_of_not_endsMuteRamp fun ⟨_, hmute, _⟩ => ?_
    rw [hf] at hmute
    cases hmute
  · rw [timerTurn_midRamp hr hf (by omega), stepNumber]
    exact ⟨hf, rfl, rfl⟩

/-- The first tick after a request that turns a ramp round: the first step of the new ramp, from the volume reached. -/
theorem run_reversal_tick {s : State} {dir : Dir} {ts : List Turn} (hc : legal s.cfg) (h : Invariant s)
    (hr : s.timerRun = true) (hm : s.muted ≠ dirMuted dir)
    (hts : s.turns = .word (encode (dirCommand dir)) :: .tick :: ts) :
    ∃ t, run 2 s = .next t ∧ (t.vol.toNat : Int) = rampVolume s.cfg dir s.vol.toNat 1 ∧ t.startVol = s.vol ∧
      t.muted = dirMuted dir ∧ (dir = .toUnmute → silences t = silences s) ∧
      (1 < s.cfg.stepCount → t.fsm = dirFsm dir ∧ t.progress = 1#16 ∧ t.events = s.events) := by
  have hi := h.timer_inited hr
  have restarted := (h.rampStart hi dir).withSurroundings s.pwmOkL s.pwmOkR (s.responses ++ [⟨.ok, 1#32⟩]) s.events
    s.turns s.host
  refine ⟨_, run_request_tick hc hi hm hts, ?_⟩
  rw [rampStart_of_timerRun hr] at restarted ⊢
  obtain ⟨-, hstart, hmuted, -⟩ := timerTurn_frame (respond .ok 1#32
    { s with startVol := s.vol, progress := 0#16, muted := dirMuted dir, fsm := dirFsm dir })
  obtain ⟨hvol, hsil, hmid⟩ := timerTurn_firstStep restarted hc rfl rfl
  exact ⟨hvol, hstart, hmuted, hsil, hmid⟩

/-- Settles O45, by the first step of the new ramp. -/
theorem reversalRestartsTheRamp : Obligations.ReversalRestartsTheRamp := by
  intro s ts hc h
  refine ⟨fun hf hts => ?_, fun hf hts => ?_⟩
  · obtain ⟨t, hrun, hvol, hstart, hmuted, -, hmid⟩ := run_reversal_tick (dir := .toMute) hc h
      (h.ramp_timerRun (dir := .toUnmute) hf) (by simp [h.toUnmute_unmuted hf, dirMuted]) hts
    rw [rampVolume_toMute, Nat.mul_one] at hvol
    exact ⟨t, hrun, by omega, hstart, hmuted, hmid⟩
  · obtain ⟨t, hrun, hvol, -, hmuted, hsil, hmid⟩ := run_reversal_tick (dir := .toUnmute) hc h
      (h.ramp_timerRun (dir := .toMute) hf) (by simp [h.toMute_muted hf, dirMuted]) hts
    rw [rampVolume_toUnmute, Nat.mul_one] at hvol
    exact ⟨t, hrun, Int.ofNat.inj hvol, hmuted, hsil rfl, hmid⟩

/-- A tick of a ramp overwrites VOL without reading it, and leaves the responses alone. -/
theorem rampTick_overwrites_vol (dir : Dir) (s : State) (v : Byte) (rs : List Response) :
    rampTick dir { s with vol := v, responses := rs } = { rampTick dir s with responses := rs } := by
  unfold rampTick
  dsimp only
  generalize BitVec.ofInt 8 _ = stored
  split
  · cases dir with
    | toMute => rw [rampEnd_toMute, rampEnd_toMute]
    | toUnmute => rw [rampEnd_toUnmute, rampEnd_toUnmute]
  · rfl

/-- Settles O46: SETVOL writes VOL alone, which the tick overwrites. -/
theorem setvolDuringARampIsOverwritten : Obligations.SetvolDuringARampIsOverwritten := by
  intro imm s hi hr hne
  obtain ⟨dir, hf⟩ := exists_dirFsm hne
  refine ⟨_, exec_setvol_ready hi imm, rfl, rfl, rfl, rfl, ?_⟩
  rw [timerTurn_ramp hr hf, timerTurn_ramp (by exact hr) (by exact hf)]
  exact rampTick_overwrites_vol dir s _ _

end Sys2Proof.Machine

/-! ### INIT (42_control.md R85) -/

namespace Sys2Proof.Machine

theorem exec_init_done {s : State} (hi : s.inited = true) : exec .init s = .next (respond .ok 0#32 s) := by
  simp [exec, execInit, hi]

theorem exec_init_first {s : State} (hi : s.inited = false) : exec .init s = .next (initDevice s) := by
  simp [exec, execInit, hi]

/-- An INIT that fails writes neither register (42_control.md R85). -/
theorem initDevice_notReady {s : State} (hb : ¬ BothReady s) :
    initDevice s = respond .errInit (notReadyMask s.pwmOkL s.pwmOkR) s :=
  if_neg (by simpa [BothReady] using hb)

/-- ERR_INIT's data as a sum: 1 for the left channel, 2 for the right one (30_encoding.md R43). -/
theorem notReadyMask_toNat (okL okR : Bool) :
    (notReadyMask okL okR).toNat = (if okL = true then 0 else 1) + (if okR = true then 0 else 2) := by
  cases okL <;> cases okR <;> decide

/-- Settles O30: INITED decides first, then both inputs together. -/
theorem initIsAllOrNothing : Obligations.InitIsAllOrNothing := by
  intro s hc
  refine ⟨exec_init_done, fun hi hl hr => ?_, fun hi hb => ?_⟩
  · exact ⟨silencePulse s.cfg, silencePulse_toNat hc, by rw [exec_init_first hi, initDevice_ready hl hr]⟩
  · exact ⟨_, notReadyMask_toNat s.pwmOkL s.pwmOkR, by rw [exec_init_first hi, initDevice_notReady hb]; rfl⟩

/-! ### RDCFG (42_control.md R88, 10_state.md R19) -/

/-- The eight configuration words as numbers: in a legal configuration each of them fits 32 bits. -/
theorem cfgWord_toNat {c : Params} (hc : legal c) {i : Nat} (hi : i ≤ 7) :
    ∃ d, cfgWord c i = some d ∧
      [c.maxVolume, c.stepCount, c.rampDurationUs, c.periodNs, c.minMarginNs, c.sampleRateHz, 10 ^ 9 / c.periodNs,
        c.periodNs / 2][i]? = some d.toNat := by
  have fits {n : Nat} (hn : n < 2 ^ 32) : some n = some (BitVec.ofNat 32 n).toNat := by
    rw [BitVec.toNat_ofNat, Nat.mod_eq_of_lt hn]
  have carrier : 10 ^ 9 / c.periodNs ≤ 10 ^ 9 := Nat.div_le_self _ _
  interval_cases i <;> exact ⟨_, rfl, fits (by omega)⟩

/-- Indices above 7 do not exist (10_state.md R19). -/
theorem cfgWord_eq_none (c : Params) {i : Nat} (hi : 7 < i) : cfgWord c i = none := by
  obtain ⟨k, rfl⟩ := Nat.exists_eq_add_of_le' hi
  rfl

theorem exec_rdcfg_some {idx : Byte} {s : State} {d : Word} (h : cfgWord s.cfg idx.toNat = some d) :
    exec (.rdcfg idx) s = .next (respond .ok d s) := by
  simp [exec, execRdcfg, zext8, h]

theorem exec_rdcfg_none {idx : Byte} {s : State} (h : cfgWord s.cfg idx.toNat = none) :
    exec (.rdcfg idx) s = .next (respondIllegal s) := by
  simp [exec, execRdcfg, zext8, h]

/-- Settles O32: the index has its word or none, and a word of RDCFG's opcode outside format X is illegal. -/
theorem rdcfgAnswersTheConfigurationWord : Obligations.RdcfgAnswersTheConfigurationWord := by
  refine ⟨fun idx s hc => ⟨fun hi => ?_, fun hi => exec_rdcfg_none (cfgWord_eq_none s.cfg hi)⟩, fun w s hop hbad => ?_⟩
  · obtain ⟨d, hd, value⟩ := cfgWord_toNat hc hi
    exact ⟨d, value, exec_rdcfg_some hd⟩
  · have illegal : IllegalWord w := .inr (.inr (.inr (hbad.symm.imp (⟨hop, ·⟩) (⟨hop, ·⟩))))
    exact (illegalWordsAreExactlyTheFiveCases w).2.2 illegal s

/-! ### The readiness gate (42_control.md R87) -/

/-- In front of the gate a gated command only answers. -/
theorem exec_gated_notReady {i : Instr} {s : State} (hg : Gated i = true) (hi : s.inited = false) :
    exec i s = .next (respond .errNotReady 0#32 s) := by
  cases i with
  | init | rdst | rdcfg | conv => cases hg
  | emitm | emitl | emitr | mute | unmute | setvol => exact congrArg _ (gated_notReady hi _)

/-- INIT answers OK or ERR_INIT. -/
theorem exec_init_response (s : State) :
    ∃ t r, exec .init s = .next t ∧ t.responses = s.responses ++ [r] ∧ r.code ≠ .errNotReady := by
  cases hi : s.inited with
  | true => exact ⟨_, _, exec_init_done hi, rfl, nofun⟩
  | false =>
    rw [exec_init_first hi]
    by_cases hb : BothReady s
    · obtain ⟨hl, hr⟩ := hb
      rw [initDevice_ready hl hr]
      exact ⟨_, _, rfl, rfl, nofun⟩
    · rw [initDevice_notReady hb]
      exact ⟨_, _, rfl, rfl, nofun⟩

/-- RDCFG answers OK or ERR_ILLEGAL. -/
theorem exec_rdcfg_response (idx : Byte) (s : State) :
    ∃ t r, exec (.rdcfg idx) s = .next t ∧ t.responses = s.responses ++ [r] ∧ r.code ≠ .errNotReady := by
  cases hd : cfgWord s.cfg idx.toNat with
  | some d => exact ⟨_, _, exec_rdcfg_some hd, rfl, nofun⟩
  | none => exact ⟨_, _, exec_rdcfg_none hd, rfl, nofun⟩

/-- The commands that are never gated never answer ERR_NOT_READY. -/
theorem exec_ungated_response {i : Instr} (hg : Gated i = false) (s : State) :
    ∃ t r, exec i s = .next t ∧ t.responses = s.responses ++ [r] ∧ r.code ≠ .errNotReady := by
  cases i with
  | init => exact exec_init_response s
  | rdcfg idx => exact exec_rdcfg_response idx s
  | rdst | conv => exact ⟨_, _, rfl, rfl, nofun⟩
  | emitm | emitl | emitr | mute | unmute | setvol => cases hg

/-- No command takes INITED back: INIT sets it, and the others leave it. -/
theorem CommandEffect.keeps_inited {i : Instr} {s t : State} (he : CommandEffect i s t) (hi : s.inited = true) :
    t.inited = true := by
  cases he with
  | inited => rfl
  | ramped dir => simpa [rampStart_eq] using hi
  | answered | emitted | volumeSet => exact hi

/-- No word on the port takes INITED back, legal or not. -/
theorem command_keeps_inited {w : Word} {s t : State} (h : command w s = .next t) (hi : s.inited = true) :
    t.inited = true := by
  unfold command at h
  split at h
  · exact (exec_effect h).keeps_inited hi
  · cases h
    exact hi

theorem HostMove.keeps_inited {s t : State} (h : HostMove s t) (hi : s.inited = true) : t.inited = true :=
  h.elim (P := fun u => u.inited = true) (fun _ => hi)
    fun _ g _ u hu => command_keeps_inited (s := { s with host := g }) (t := u) hu hi

/-- Only a reset turn closes the gate (42_control.md R87, 70_reset_and_hazards.md R120). -/
theorem step_keeps_inited {s t : State} (h : step s = .next t) (hreset : s.turns.head? ≠ some .reset)
    (hi : s.inited = true) : t.inited = true := by
  obtain ⟨-, ts, ⟨w, hw⟩ | rfl | hhost | ⟨-, rfl⟩ | ⟨l, r, rfl⟩ | ⟨hhead, -⟩⟩ := step_cases h
  · exact command_keeps_inited hw hi
  · exact hi
  · exact hhost.keeps_inited hi
  · obtain ⟨-, -, -, hinited, -⟩ := timerTurn_frame { s with turns := ts }
    exact hinited.trans hi
  · exact hi
  · exact absurd hhead hreset

/-- Settles O33: the gate itself, the answers of the commands outside it, and the one turn that closes it. -/
theorem readinessGate : Obligations.ReadinessGate := by
  refine ⟨fun i s => exec_gated_notReady, fun i s t hg h => ?_, fun s t => step_keeps_inited⟩
  obtain ⟨u, r, hu, answered⟩ := exec_ungated_response hg s
  rw [hu] at h
  cases h
  exact ⟨r, answered⟩

end Sys2Proof.Machine

/-! ### What a command hands back to the host's driver (43_host_sequences.md) -/

namespace Sys2Proof.Machine

/-- The driver goes on with the state and the response that its command leaves. -/
theorem ask_exec {i : Instr} {s t : State} {rs : List Response} {r : Response} (hw : i.wellFormed = true)
    (h : exec i s = .next t) (hr : t.responses = rs ++ [r]) (k : Response → State → State) :
    ask i k s = .next (k r t) :=
  ask_eq ((command_legal (decode_encode hw) s).trans h) hr k

theorem wellFormed_of_gated {i : Instr} (hg : Gated i = true) : i.wellFormed = true := by
  cases i with
  | rdcfg => cases hg
  | init | rdst | conv | emitm | emitl | emitr | mute | unmute | setvol => rfl

/-- Before INIT a gated command hands back ERR_NOT_READY (42_control.md R87). -/
theorem ask_notReady {i : Instr} {s : State} (hg : Gated i = true) (hi : s.inited = false)
    (k : Response → State → State) :
    ask i k s = .next (k ⟨.errNotReady, 0#32⟩ (respond .errNotReady 0#32 s)) :=
  ask_exec (wellFormed_of_gated hg) (exec_gated_notReady hg hi) rfl k

/-! ### The host's turn, phase by phase -/

section Turn

variable {s : State}

/-- The state as the host begins a task: these tasks are the ones after it. -/
def withTasks (ts : List HostTask) (s : State) : State := { s with host := { s.host with tasks := ts } }

/-- Between tasks the host begins the next one. -/
theorem hostTurn_begins {task : HostTask} {ts : List HostTask} (hp : s.host.phase = .idle)
    (ht : s.host.tasks = task :: ts) :
    hostTurn s = startTask task (withTasks ts s) := by
  simp only [hostTurn, hp, ht, withTasks]

theorem hostTurn_emitRight {r : Imm16} (hp : s.host.phase = .emitRight r) :
    hostTurn s = ask (.emitr r) (unlessHwError (hostFinish .done)) s := by
  simp only [hostTurn, hp]

theorem hostTurn_playMono {x : Imm16} {rest : List Imm16} (hp : s.host.phase = .playMono (x :: rest)) :
    hostTurn s = ask (.emitm x) (afterMono rest) s := by
  simp only [hostTurn, hp]

theorem hostTurn_playStereo {l r : Imm16} {rest : List Imm16} (hp : s.host.phase = .playStereo (l :: r :: rest)) :
    hostTurn s = ask (.emitl l) (unlessHwError (hostPhase (.playStereoRight r rest))) s := by
  simp only [hostTurn, hp]

theorem hostTurn_playStereoRight {r : Imm16} {rest : List Imm16} (hp : s.host.phase = .playStereoRight r rest) :
    hostTurn s = ask (.emitr r) (unlessHwError (continueStereo rest)) s := by
  simp only [hostTurn, hp]

theorem hostTurn_polling {b : Bool} (hp : s.host.phase = .polling b) :
    hostTurn s = ask .rdst (afterPoll b) s := by
  simp only [hostTurn, hp]

theorem hostTurn_unmuting (hp : s.host.phase = .unmuting) :
    hostTurn s = ask .unmute (fun _ => hostFinish .done) s := by
  simp only [hostTurn, hp]

/-- The host has the step when its turn is listed next, or when none is and the timer is stopped (log entry 3). -/
theorem step_hostsTurn (hc : legal s.cfg)
    (h : (∃ l, s.turns = .host :: l) ∨ (s.turns = [] ∧ s.timerRun = false)) :
    step s = hostTurn { s with turns := s.turns.tail } := by
  rcases h with ⟨l, hts⟩ | ⟨hts, hr⟩
  · rw [step_turn hc hts, hts]
    rfl
  · have same : { s with turns := [] } = s := by rw [← hts]
    rw [step_host hc hts hr, hts, List.tail_nil, same]

/-- A state that the next step leads to is where a run of one step ends. -/
theorem run_one {t : State} (h : step s = .next t) : run 1 s = .next t := (run_succ 0 h).trans (run_zero t)

/-- Two moves of the host in a row, both listed or with the timer stopped. -/
theorem run_two_hosts {t u : State} {l : List Turn} (hc : legal s.cfg)
    (hturn : s.turns = .host :: .host :: l ∨ (s.turns = [] ∧ s.timerRun = false))
    (first : hostTurn { s with turns := s.turns.tail } = .next t) (hcfg : t.cfg = s.cfg)
    (hturns : t.turns = s.turns.tail) (htimer : t.timerRun = s.timerRun)
    (second : hostTurn { t with turns := t.turns.tail } = .next u) : run 2 s = .next u := by
  have begun := (step_hostsTurn hc (hturn.imp_left fun hts => ⟨_, hts⟩)).trans first
  rw [run_succ 1 begun]
  refine run_one ((step_hostsTurn (hcfg ▸ hc) ?_).trans second)
  rw [hturns, htimer]
  exact hturn.imp (fun hts => ⟨l, by rw [hts]; rfl⟩) fun ⟨hts, hr⟩ => ⟨by rw [hts]; rfl, hr⟩

end Turn

/-! ### The checks of a play (R95) -/

/-- The checks read INITED and MUTED off the status word. -/
theorem playCheck_status (begin : State → State) (s t : State) :
    playCheck begin ⟨.ok, statusWord s⟩ t =
      if s.inited = false then hostFinish .notReady t else if s.muted then hostFinish .ok t else begin t := by
  obtain ⟨inited, muted, -⟩ := statusWord_bits s
  simp only [playCheck, inited, muted]

/-- The three ends of the first turn of a play: turned away, discarded, or begun. -/
theorem hostTurn_play {s : State} {task : HostTask} {ts : List HostTask} {begin : State → State}
    (hplay : ∀ u, startTask task u = ask .rdst (playCheck begin) u) (hp : s.host.phase = .idle)
    (ht : s.host.tasks = task :: ts) :
    let t := respond .ok (statusWord s) (withTasks ts s)
    hostTurn s = .next
      (if s.inited = false then hostFinish .notReady t else if s.muted then hostFinish .ok t else begin t) := by
  rw [hostTurn_begins hp ht, hplay, ask_rdst, playCheck_status]
  rfl

theorem startTask_playS {buf : List Imm16} (h : buf.length % 2 = 0) (s : State) :
    startTask (.playS buf) s = ask .rdst (playCheck (continueStereo buf)) s :=
  if_pos h

/-- Settles O55: the first turn of either play only reads the status word, and ends the task on it. -/
theorem playChecksOncePerBuffer : Obligations.PlayChecksOncePerBuffer := by
  intro s task buf ts htask hp ht
  obtain ⟨begin, hplay⟩ : ∃ begin, ∀ u, startTask task u = ask .rdst (playCheck begin) u := by
    rcases htask with rfl | ⟨rfl, heven⟩
    · exact ⟨continueMono buf, fun _ => rfl⟩
    · exact ⟨_, startTask_playS heven⟩
  rw [hostTurn_play hplay hp ht]
  refine ⟨fun hi hm => ?_, fun hi => ?_⟩
  · simp [hi, hm, hp, hostFinish, respond, withTasks]
  · simp [hi, hp, hostFinish, respond, withTasks]

/-! ### The emissions as the driver sees them (40_convert.md R69 to R71) -/

/-- The command that emits on one channel alone. -/
def emitCommand : Channel → Imm16 → Instr
  | .left => .emitl
  | .right => .emitr

/-- What an emission leaves whose writes are all accepted: the sample at the current volume on the channels written. -/
def sampleWritten (writes : Channel → Bool) (x : Imm16) (s : State) : State :=
  let p := convertPulse s.cfg x s.vol
  { s with
    pwmL := if writes .left then some p else s.pwmL
    pwmR := if writes .right then some p else s.pwmR
    events := s.events ++ ([.left, .right].filter writes).map (.pwmWritten · p)
    responses := s.responses ++ [⟨.ok, pulseData p⟩] }

/-- What an emission leaves whose write to this channel is refused. -/
def sampleRefused (ch : Channel) (s : State) : State :=
  respond .errHwWrite (channelIndex ch) (emit (.pwmWriteFailed ch) s)

section Emission

variable {s : State} (hi : s.inited = true) (x : Imm16)
include hi

theorem exec_emitm_accepted (hb : BothReady s) : exec (.emitm x) s = .next (sampleWritten (fun _ => true) x s) := by
  obtain ⟨hl, hr⟩ := hb
  rw [exec_emitm_ready hi, emitBoth_leftAccepted hl]
  simp [sampleWritten, hr]

theorem exec_emitCommand_ready (ch : Channel) :
    exec (emitCommand ch x) s = .next (emitChannel ch (convertPulse s.cfg x s.vol) s) := by
  cases ch with
  | left => exact exec_emitl_ready hi x
  | right => exact exec_emitr_ready hi x

theorem exec_emitCommand_accepted {ch : Channel} (h : pwmOk ch s = true) :
    exec (emitCommand ch x) s = .next (sampleWritten (· == ch) x s) := by
  rw [exec_emitCommand_ready hi, emitChannel, if_pos h, pwmWrite_accepted h]
  cases ch <;> rfl

theorem exec_emitCommand_refused {ch : Channel} (h : pwmOk ch s = false) :
    exec (emitCommand ch x) s = .next (sampleRefused ch s) := by
  rw [exec_emitCommand_ready hi, emitChannel, if_neg (by simp [h]), pwmWrite_refused h]
  rfl

theorem ask_emitm_accepted (hb : BothReady s) (k : Response → State → State) :
    ask (.emitm x) k s =
      .next (k ⟨.ok, pulseData (convertPulse s.cfg x s.vol)⟩ (sampleWritten (fun _ => true) x s)) :=
  ask_exec rfl (exec_emitm_accepted hi x hb) rfl k

/-- An emission on one channel whose write is accepted goes on; its response is no write failure. -/
theorem ask_emitCommand_accepted {ch : Channel} (h : pwmOk ch s = true) (k : State → State) :
    ask (emitCommand ch x) (unlessHwError k) s = .next (k (sampleWritten (· == ch) x s)) :=
  ask_exec (by cases ch <;> rfl) (exec_emitCommand_accepted hi x h) rfl _

/-- An emission on one channel whose write is refused ends the task (70_reset_and_hazards.md R130). -/
theorem ask_emitCommand_refused {ch : Channel} (h : pwmOk ch s = false) (k : State → State) :
    ask (emitCommand ch x) (unlessHwError k) s =
      .next (hostFinish (.hardwareWriteError (channelIndex ch)) (sampleRefused ch s)) :=
  ask_exec (by cases ch <;> rfl) (exec_emitCommand_refused hi x h) rfl _

end Emission

/-- A sample of PLAY.M that one channel refuses ends the buffer; an accepted left write stays. -/
theorem ask_emitm_refused {s : State} (hi : s.inited = true) (hb : ¬ BothReady s) (x : Imm16) (rest : List Imm16) :
    ask (.emitm x) (afterMono rest) s =
      .next (hostFinish (.hardwareWriteError (if s.pwmOkL = true then 1#32 else 0#32))
        (emitBoth (convertPulse s.cfg x s.vol) s)) := by
  have emitted := exec_emitm_ready hi x
  cases hl : s.pwmOkL with
  | true =>
    have hr : s.pwmOkR = false := by simpa [BothReady, hl] using hb
    rw [emitBoth_leftAccepted hl, hr] at emitted ⊢
    exact ask_exec rfl emitted rfl _
  | false =>
    rw [emitBoth_leftRefused hl] at emitted ⊢
    exact ask_exec rfl emitted rfl _

/-- Settles O56: the refused write is the last command of the task. -/
theorem writeFailureAbortsTheBuffer : Obligations.WriteFailureAbortsTheBuffer := by
  intro s hi
  refine ⟨fun x rest hp hb => ?_, fun l r rest hp hl => ?_, fun r rest hp hr => ?_⟩
  · obtain ⟨-, hpl, hpr, -⟩ := emitBoth_registers (convertPulse s.cfg x s.vol) s
    refine ⟨_, (hostTurn_playMono hp).trans (ask_emitm_refused hi hb x rest), ?_, ?_, hpl⟩
    · rw [hostFinish_host, (emitBoth_sameSurroundings _ s).host]
    · exact hpr.trans (if_neg hb)
  · exact ⟨_, (hostTurn_playStereo hp).trans (ask_emitCommand_refused (ch := .left) hi l hl _), rfl, rfl, rfl⟩
  · exact ⟨_, (hostTurn_playStereoRight hp).trans (ask_emitCommand_refused (ch := .right) hi r hr _), rfl, rfl, rfl⟩

end Sys2Proof.Machine

/-! ### EMITS (43_host_sequences.md R97) -/

namespace Sys2Proof.Machine

/-- A tick or a word of another host answers, and leaves INITED and all that is no item of the block (log entry 21). -/
theorem takeTurn_tick_or_word {x : Turn} (hx : x = .tick ∨ ∃ w, x = .word w) {s : State} (hi : s.inited = true) :
    ∃ t, takeTurn x s = .next t ∧ SameSurroundings s t ∧ t.inited = true := by
  rcases hx with rfl | ⟨w, rfl⟩
  · obtain ⟨hcfg, -, -, hinited, hokL, hokR, -, hturns, hhost⟩ := timerTurn_frame s
    exact ⟨_, rfl, ⟨hcfg, hokL, hokR, hturns, hhost⟩, hinited.trans hi⟩
  · obtain ⟨t, ht⟩ := command_next w s
    exact ⟨t, ht, command_sameSurroundings ht, command_keeps_inited ht hi⟩

/-- Ticks, words and new inputs leave the host where it is and the device initialised. -/
theorem run_between {l₂ : List Turn} : ∀ (l₁ : List Turn) {s : State}, legal s.cfg → s.inited = true →
    s.turns = l₁ ++ l₂ → (∀ x ∈ l₁, x = .tick ∨ (∃ w, x = .word w) ∨ ∃ okL okR, x = .env okL okR) →
    ∃ t, run l₁.length s = .next t ∧ t.cfg = s.cfg ∧ t.inited = true ∧ t.host = s.host ∧ t.turns = l₂ := by
  intro l₁
  induction l₁ with
  | nil => exact fun _ hi hts _ => ⟨_, run_zero _, rfl, hi, rfl, hts⟩
  | cons x l₁ ih =>
    intro s hc hi hts hl
    obtain ⟨hx, hrest⟩ := List.forall_mem_cons.1 hl
    obtain ⟨u, hu, hcfg, hinited, hhost, hturns⟩ : ∃ u, takeTurn x { s with turns := l₁ ++ l₂ } = .next u ∧
        u.cfg = s.cfg ∧ u.inited = true ∧ u.host = s.host ∧ u.turns = l₁ ++ l₂ := by
      rcases or_assoc.2 hx with hx | ⟨okL, okR, rfl⟩
      · obtain ⟨u, hu, same, hinited⟩ := takeTurn_tick_or_word hx (s := { s with turns := l₁ ++ l₂ }) hi
        exact ⟨u, hu, same.cfg, hinited, same.host, same.turns⟩
      · exact ⟨_, rfl, rfl, hi, rfl, rfl⟩
    obtain ⟨t, ht, hct, hit, hht, htt⟩ := ih (by rwa [hcfg]) hinited hturns hrest
    rw [List.length_cons, run_succ _ ((step_turn hc hts).trans hu)]
    exact ⟨t, ht, hct.trans hcfg, hit, hht.trans hhost, htt⟩

/-- The same after one step more. -/
theorem run_step_between {s u : State} {l₁ l₂ : List Turn} (hs : step s = .next u) (hc : legal u.cfg)
    (hi : u.inited = true) (hts : u.turns = l₁ ++ l₂)
    (hl : ∀ x ∈ l₁, x = .tick ∨ (∃ w, x = .word w) ∨ ∃ okL okR, x = .env okL okR) :
    ∃ t, run (l₁.length + 1) s = .next t ∧ t.cfg = u.cfg ∧ t.inited = true ∧ t.host = u.host ∧ t.turns = l₂ := by
  rw [run_succ _ hs]
  exact run_between l₁ hc hi hts hl

section Emits

variable {s : State} {l r : Imm16} {ts : List HostTask}

theorem hostTurn_emits (hp : s.host.phase = .idle) (ht : s.host.tasks = .emits l r :: ts) :
    hostTurn s = ask (emitCommand .left l) (unlessHwError (hostPhase (.emitRight r))) (withTasks ts s) :=
  hostTurn_begins hp ht

/-- The left sample is written, and the right one is next. -/
theorem emits_left_accepted (hp : s.host.phase = .idle) (ht : s.host.tasks = .emits l r :: ts)
    (hi : s.inited = true) (hl : s.pwmOkL = true) :
    hostTurn s = .next { sampleWritten (· == .left) l s with
      host := { s.host with tasks := ts, phase := .emitRight r } } :=
  (hostTurn_emits hp ht).trans
    (ask_emitCommand_accepted (s := withTasks ts s) (ch := .left) hi l hl _)

/-- A refused left write ends EMITS; the right sample is not issued. -/
theorem emits_left_refused (hp : s.host.phase = .idle) (ht : s.host.tasks = .emits l r :: ts)
    (hi : s.inited = true) (hl : s.pwmOkL = false) :
    hostTurn s = .next { sampleRefused .left s with
      host := { s.host with
        tasks := ts, phase := .idle, results := s.host.results ++ [.hardwareWriteError 0#32] } } :=
  (hostTurn_emits hp ht).trans
    (ask_emitCommand_refused (s := withTasks ts s) (ch := .left) hi l hl _)

theorem emitRight_accepted (hp : s.host.phase = .emitRight r) (hi : s.inited = true) (hr : s.pwmOkR = true) :
    hostTurn s = .next { sampleWritten (· == .right) r s with
      host := { s.host with phase := .idle, results := s.host.results ++ [.done] } } :=
  (hostTurn_emitRight hp).trans (ask_emitCommand_accepted (ch := .right) hi r hr _)

theorem emitRight_refused (hp : s.host.phase = .emitRight r) (hi : s.inited = true) (hr : s.pwmOkR = false) :
    hostTurn s = .next { sampleRefused .right s with
      host := { s.host with phase := .idle, results := s.host.results ++ [.hardwareWriteError 1#32] } } :=
  (hostTurn_emitRight hp).trans (ask_emitCommand_refused (ch := .right) hi r hr _)

/-- Before INIT both commands are only answered; the gate's answer is no write failure. -/
theorem emits_left_notReady (hp : s.host.phase = .idle) (ht : s.host.tasks = .emits l r :: ts)
    (hi : s.inited = false) :
    hostTurn s = .next { respond .errNotReady 0#32 s with
      host := { s.host with tasks := ts, phase := .emitRight r } } :=
  (hostTurn_emits hp ht).trans
    (ask_notReady (i := emitCommand .left l) (s := withTasks ts s) rfl hi _)

theorem emitRight_notReady (hp : s.host.phase = .emitRight r) (hi : s.inited = false) :
    hostTurn s = .next { respond .errNotReady 0#32 s with
      host := { s.host with phase := .idle, results := s.host.results ++ [.done] } } :=
  (hostTurn_emitRight hp).trans (ask_notReady rfl hi _)

end Emits

/-- Settles O57: each of the two steps is the one command of its channel, accepted, refused or turned away. -/
theorem emitsIsLeftThenRight : Obligations.EmitsIsLeftThenRight := by
  intro s l r ts hc hp ht
  refine ⟨fun hi hr hts => ⟨fun hb => ?_, fun hokL hokR => ?_, fun hokL => ?_⟩,
    fun l₁ l₂ hi hts hl₁ => ⟨fun hokL => ?_, fun hokL => ?_⟩, fun l₂ hi hturn => ?_⟩
  · obtain ⟨hokL, hokR⟩ := hb
    refine ⟨_, run_two_hosts (l := []) hc (.inr ⟨hts, hr⟩) (emits_left_accepted hp ht hi hokL) rfl rfl rfl
      (emitRight_accepted rfl hi hokR), ?_⟩
    simp [sampleWritten]
  · refine ⟨_, run_two_hosts (l := []) hc (.inr ⟨hts, hr⟩) (emits_left_accepted hp ht hi hokL) rfl rfl rfl
      (emitRight_refused rfl hi hokR), ?_⟩
    simp [sampleWritten, sampleRefused]
  · refine ⟨_, run_one ((step_host hc hts hr).trans (emits_left_refused hp ht hi hokL)), ?_⟩
    simp [sampleRefused]
  · have left := (step_turn hc hts).trans
      (emits_left_accepted (s := { s with turns := l₁ ++ .host :: l₂ }) hp ht hi hokL)
    obtain ⟨v, hv, hcfg, hinited, hhost, hturns⟩ := run_step_between left hc hi rfl hl₁
    have hpv : v.host.phase = .emitRight r := by rw [hhost]
    have right := step_turn (hcfg ▸ hc) hturns
    cases hokR : v.pwmOkR with
    | true =>
      refine ⟨_, v, _, left, rfl, rfl, hv, hpv,
        right.trans (emitRight_accepted (s := { v with turns := l₂ }) hpv hinited hokR), ?_⟩
      simp [sampleWritten, hhost, hcfg, hokR]
    | false =>
      refine ⟨_, v, _, left, rfl, rfl, hv, hpv,
        right.trans (emitRight_refused (s := { v with turns := l₂ }) hpv hinited hokR), ?_⟩
      simp [sampleRefused, hhost, hokR]
  · refine ⟨_, (step_turn hc hts).trans
      (emits_left_refused (s := { s with turns := l₁ ++ .host :: l₂ }) hp ht hi hokL), ?_⟩
    simp [sampleRefused]
  · refine ⟨_, run_two_hosts hc hturn (emits_left_notReady hp ht hi) rfl rfl rfl (emitRight_notReady rfl hi), ?_⟩
    simp [hi]

end Sys2Proof.Machine

/-! ### The loop of a play (43_host_sequences.md R95, R96) -/

namespace Sys2Proof.Machine

/-- The host of PLAY.M with these samples still to emit; with none left it has returned Ok. -/
def monoHost (h : HostState) : List Imm16 → HostState
  | [] => { h with phase := .idle, results := h.results ++ [.ok] }
  | x :: rest => { h with phase := .playMono (x :: rest) }

/-- The host of PLAY.S with these samples still to emit: an even number begins with a left one, an odd number with the
right one of a frame. -/
def stereoHost (h : HostState) : List Imm16 → HostState
  | [] => { h with phase := .idle, results := h.results ++ [.ok] }
  | x :: rest =>
    if rest.length % 2 = 1 then { h with phase := .playStereo (x :: rest) }
    else { h with phase := .playStereoRight x rest }

/-- The channel that PLAY.S writes when this many samples come after the one it emits. -/
def stereoWrites (after : Nat) : Channel → Bool
  | .left => after % 2 == 1
  | .right => after % 2 == 0

theorem stereoWrites_of_even {n : Nat} (h : n % 2 = 0) : stereoWrites n = (· == .right) := by
  funext ch
  cases ch <;> simp [stereoWrites, h]

theorem stereoWrites_of_odd {n : Nat} (h : n % 2 = 1) : stereoWrites n = (· == .left) := by
  funext ch
  cases ch <;> simp [stereoWrites, h]

/-- A host whose every turn, on a ready device, emits its next sample: `hostAt` is the host with the given samples left,
and `writes` the channels written when that many come after the sample. -/
def EmitsEachSample (hostAt : List Imm16 → HostState) (writes : Nat → Channel → Bool) : Prop :=
  ∀ (x : Imm16) (rest : List Imm16) (s : State), s.inited = true → BothReady s → s.host = hostAt (x :: rest) →
    hostTurn s = .next { sampleWritten (writes rest.length) x s with host := hostAt rest }

theorem continueMono_eq (rest : List Imm16) (s : State) :
    continueMono rest s = { s with host := monoHost s.host rest } := by
  cases rest <;> rfl

theorem continueStereo_eq {rest : List Imm16} (h : rest.length % 2 = 0) (s : State) :
    continueStereo rest s = { s with host := stereoHost s.host rest } := by
  cases rest with
  | nil => rfl
  | cons x rest =>
    have odd : rest.length % 2 = 1 := by rw [List.length_cons] at h; omega
    rw [stereoHost, if_pos odd]
    rfl

/-- Only the phase changes from sample to sample. -/
theorem monoHost_monoHost (h : HostState) (x : Imm16) (rest after : List Imm16) :
    monoHost (monoHost h (x :: rest)) after = monoHost h after := by
  cases after <;> rfl

theorem stereoHost_withPhase (h : HostState) (p : HostPhase) (after : List Imm16) :
    stereoHost { h with phase := p } after = stereoHost h after := by
  cases after <;> rfl

theorem monoHost_emits (h : HostState) : EmitsEachSample (monoHost h) fun _ _ => true := by
  intro x rest s hi hb hs
  rw [hostTurn_playMono (x := x) (rest := rest) (by rw [hs]; rfl), ask_emitm_accepted hi x hb]
  refine congrArg Host.Outcome.next ((continueMono_eq rest _).trans ?_)
  rw [← monoHost_monoHost h x rest rest, ← hs]
  rfl

theorem stereoHost_emits (h : HostState) : EmitsEachSample (stereoHost h) stereoWrites := by
  intro x rest s hi hb hs
  obtain ⟨hl, hr⟩ := hb
  rcases Nat.mod_two_eq_zero_or_one rest.length with even | odd
  · have hs' : s.host = { h with phase := .playStereoRight x rest } := by simpa [stereoHost, even] using hs
    rw [hostTurn_playStereoRight (r := x) (rest := rest) (by rw [hs']), stereoWrites_of_even even]
    refine (ask_emitCommand_accepted (ch := .right) hi x hr _).trans (congrArg Host.Outcome.next ?_)
    rw [continueStereo_eq even, ← stereoHost_withPhase h (.playStereoRight x rest), ← hs']
    rfl
  · obtain ⟨y, after, rfl⟩ := List.exists_cons_of_length_pos (l := rest) (by omega)
    have even : after.length % 2 = 0 := by rw [List.length_cons] at odd; omega
    have hs' : s.host = { h with phase := .playStereo (x :: y :: after) } := by
      rw [hs, stereoHost, if_pos odd]
    rw [hostTurn_playStereo (l := x) (r := y) (rest := after) (by rw [hs']), stereoWrites_of_odd odd]
    refine (ask_emitCommand_accepted (ch := .left) hi x hl _).trans ?_
    simp [hostPhase, stereoHost, even, sampleWritten, hs']

section Loop

variable {hostAt : List Imm16 → HostState} {writes : Nat → Channel → Bool} {c : Params}

/-- A ready device and a host with these samples left to emit. -/
structure Playing (hostAt : List Imm16 → HostState) (c : Params) (left : List Imm16) (s : State) : Prop where
  cfg : s.cfg = c
  inited : s.inited = true
  ready : BothReady s
  host : s.host = hostAt left

theorem Playing.withTurns {left : List Imm16} {s : State} (h : Playing hostAt c left s) (l : List Turn) :
    Playing hostAt c left { s with turns := l } :=
  { h with }

/-- Ticks and words leave the play where it is. -/
theorem Playing.of_surroundings {left : List Imm16} {s t : State} (h : Playing hostAt c left s)
    (same : SameSurroundings s t) (hi : t.inited = true) : Playing hostAt c left t := by
  obtain ⟨hcfg, -, ⟨hl, hr⟩, hhost⟩ := h
  exact ⟨same.cfg.trans hcfg, hi, ⟨same.pwmOkL.trans hl, same.pwmOkR.trans hr⟩, same.host.trans hhost⟩

/-- The sample is emitted and the next one is up. -/
theorem Playing.next_sample {x : Imm16} {rest : List Imm16} {s : State} (h : Playing hostAt c (x :: rest) s)
    (w : Channel → Bool) : Playing hostAt c rest { sampleWritten w x s with host := hostAt rest } :=
  ⟨h.cfg, h.inited, h.ready, rfl⟩

section Emitting

variable (hemits : EmitsEachSample hostAt writes) (hc : legal c)
include hemits hc

/-- With no turn listed and the timer stopped a step emits a sample (log entry 3). -/
theorem Playing.step_quiet {x : Imm16} {rest : List Imm16} {s : State} (h : Playing hostAt c (x :: rest) s)
    (hts : s.turns = []) (hr : s.timerRun = false) :
    step s = .next { sampleWritten (writes rest.length) x s with host := hostAt rest } :=
  (step_host (h.cfg ▸ hc) hts hr).trans (hemits x rest s h.inited h.ready h.host)

/-- With no turn listed and the timer stopped the samples are emitted one a step, all at the same volume. -/
theorem Playing.run_quiet {rest : List Imm16} : ∀ (first : List Imm16) {s : State},
    Playing hostAt c (first ++ rest) s → s.turns = [] → s.timerRun = false →
    ∃ t, run first.length s = .next t ∧ Playing hostAt c rest t ∧ t.turns = [] ∧ t.timerRun = false ∧ t.vol = s.vol ∧
      t.responses = s.responses ++ first.map fun x => ⟨.ok, pulseData (convertPulse c x s.vol)⟩ := by
  intro first
  induction first with
  | nil => exact fun h hts hr => ⟨_, run_zero _, h, hts, hr, rfl, by simp⟩
  | cons x first ih =>
    intro s h hts hr
    obtain ⟨t, hrun, ht, htt, htr, hv, hresp⟩ := ih (h.next_sample (writes (first ++ rest).length)) hts hr
    rw [List.length_cons, run_succ _ (h.step_quiet hemits hc hts hr)]
    refine ⟨t, hrun, ht, htt, htr, hv, hresp.trans ?_⟩
    simp [sampleWritten, h.cfg]

/-- With turns listed, ticks and words leave the play where it is and each turn of the host emits one sample. -/
theorem Playing.run_turns {l₂ : List Turn} : ∀ (l₁ : List Turn) {left : List Imm16} {s : State},
    Playing hostAt c left s → s.turns = l₁ ++ l₂ → (∀ x ∈ l₁, x = .host ∨ x = .tick ∨ ∃ w, x = .word w) →
    l₁.count .host ≤ left.length →
    ∃ t, run l₁.length s = .next t ∧ Playing hostAt c (left.drop (l₁.count .host)) t ∧ t.turns = l₂ := by
  intro l₁
  induction l₁ with
  | nil => exact fun h hts _ _ => ⟨_, run_zero _, h, hts⟩
  | cons x l₁ ih =>
    intro left s h hts hl hcount
    obtain ⟨hx, hrest⟩ := List.forall_mem_cons.1 hl
    have taken := step_turn (h.cfg ▸ hc) hts
    have now := h.withTurns (l₁ ++ l₂)
    rcases hx with rfl | hx
    · rw [List.count_cons_self] at hcount ⊢
      obtain ⟨x, after, rfl⟩ := List.exists_cons_of_length_pos (l := left) (by omega)
      have emitted := hemits x after _ now.inited now.ready now.host
      rw [List.length_cons, run_succ _ (taken.trans emitted)]
      exact ih (now.next_sample _) rfl hrest (by simpa using hcount)
    · have other : l₁.count .host = (x :: l₁).count .host :=
        (List.count_cons_of_ne (by rcases hx with rfl | ⟨w, rfl⟩ <;> simp)).symm
      obtain ⟨u, hu, same, hi⟩ := takeTurn_tick_or_word hx now.inited
      rw [List.length_cons, run_succ _ (taken.trans hu), ← other]
      exact ih (now.of_surroundings same hi) same.turns hrest (other ▸ hcount)

/-- A play whose turns are listed goes on to its end, and each of the host's turns emits the next sample at the volume
reached. -/
theorem run_play_turns {s u : State} {buf : List Imm16} {l : List Turn} (hs : step s = .next u)
    (h : Playing hostAt c buf u) (hts : u.turns = l) (hl : ∀ x ∈ l, x = .host ∨ x = .tick ∨ ∃ w, x = .word w)
    (hcount : l.count .host = buf.length) :
    (∃ t, run (l.length + 1) s = .next t ∧ t.host = hostAt []) ∧
      ∀ l₁ l₂, l = l₁ ++ .host :: l₂ → ∃ v x rest, run (l₁.length + 1) s = .next v ∧ v.cfg = c ∧
        buf.drop (l₁.count .host) = x :: rest ∧
        step v = .next { sampleWritten (writes rest.length) x { v with turns := l₂ } with host := hostAt rest } := by
  constructor
  · obtain ⟨t, hrun, ht, -⟩ := h.run_turns hemits hc (l₂ := []) l (by simpa using hts) hl hcount.le
    rw [hcount, List.drop_length] at ht
    exact ⟨t, (run_succ _ hs).trans hrun, ht.host⟩
  · rintro l₁ l₂ rfl
    rw [List.count_append, List.count_cons_self] at hcount
    obtain ⟨v, hrun, hv, hvt⟩ := h.run_turns hemits hc l₁ hts
      (fun x hx => hl x (List.mem_append_left _ hx)) (by omega)
    obtain ⟨x, rest, hleft⟩ := List.exists_cons_of_length_pos (l := buf.drop (l₁.count .host))
      (by rw [List.length_drop]; omega)
    rw [hleft] at hv
    exact ⟨v, x, rest, (run_succ _ hs).trans hrun, hv.cfg, hleft,
      (step_turn (hv.cfg ▸ hc) hvt).trans (hemits x rest _ hv.inited hv.ready hv.host)⟩

end Emitting

end Loop

/-! ### The whole buffer -/

/-- At volume 0 every sample is silence (40_convert.md R66 item 2). -/
theorem convertPulse_volume_zero {c : Params} (hc : legal c) (x : Imm16) : convertPulse c x 0#8 = silencePulse c := by
  refine BitVec.eq_of_toNat_eq (Int.ofNat.inj ((convertPulse_toNat hc x 0#8).trans ?_))
  rw [silencePulse_toNat hc]
  exact convert_volume_zero hc _

/-- A play of an unmuted device begins its loop after one RDST. -/
theorem play_begins {s : State} {task : HostTask} {ts : List HostTask} {begin : State → State}
    (hplay : ∀ u, startTask task u = ask .rdst (playCheck begin) u) (hp : s.host.phase = .idle)
    (ht : s.host.tasks = task :: ts) (hi : s.inited = true) (hm : s.muted = false) :
    hostTurn s = .next (begin (respond .ok (statusWord s) (withTasks ts s))) := by
  rw [hostTurn_play hplay hp ht, if_neg (by simp [hi]), if_neg (by simp [hm])]

theorem playMono_begins {s : State} {buf : List Imm16} {ts : List HostTask} (hp : s.host.phase = .idle)
    (ht : s.host.tasks = .playM buf :: ts) (hi : s.inited = true) (hm : s.muted = false) :
    hostTurn s = .next { respond .ok (statusWord s) s with host := monoHost { s.host with tasks := ts } buf } :=
  (play_begins (task := .playM buf) (begin := continueMono buf) (fun _ => rfl) hp ht hi hm).trans
    (congrArg _ (continueMono_eq _ _))

theorem playStereo_begins {s : State} {buf : List Imm16} {ts : List HostTask} (hp : s.host.phase = .idle)
    (ht : s.host.tasks = .playS buf :: ts) (even : buf.length % 2 = 0) (hi : s.inited = true) (hm : s.muted = false) :
    hostTurn s = .next { respond .ok (statusWord s) s with host := stereoHost { s.host with tasks := ts } buf } :=
  (play_begins (startTask_playS even) hp ht hi hm).trans (congrArg _ (continueStereo_eq even _))

/-- Settles O53: one RDST, and then the loop, whose every turn of the host emits one sample on both channels. -/
theorem playMonoEmitsTheWholeBuffer : Obligations.PlayMonoEmitsTheWholeBuffer := by
  intro s buf ts hc hi hm hb hp ht
  have emits := monoHost_emits { s.host with tasks := ts }
  refine ⟨fun hr hts => ?_, fun l hts hl hcount => ?_⟩
  · have begun := (step_host hc hts hr).trans (playMono_begins hp ht hi hm)
    have playing : Playing (monoHost { s.host with tasks := ts }) s.cfg buf
      { respond .ok (statusWord s) s with host := monoHost { s.host with tasks := ts } buf } := ⟨rfl, hi, hb, rfl⟩
    rw [run_succ _ begun]
    rcases List.eq_nil_or_concat' buf with rfl | ⟨first, x, rfl⟩
    · exact ⟨_, run_zero _, rfl, rfl, rfl, rfl, nofun⟩
    · obtain ⟨u, hrun, hu, hut, hur, hv, hresp⟩ := playing.run_quiet emits hc first hts hr
      have last := run_one (hu.step_quiet emits hc hut hur)
      rw [List.length_append, run_add _ hrun]
      refine ⟨_, last, rfl, rfl, rfl, ?_, ?_⟩
      · simp [sampleWritten, hresp, hu.cfg, hv]
      · simp [sampleWritten, hu.cfg, hv]
  · have begun := (step_turn hc hts).trans (playMono_begins (s := { s with turns := l }) hp ht hi hm)
    obtain ⟨⟨t, hrun, hend⟩, each⟩ := run_play_turns emits hc begun ⟨rfl, hi, hb, rfl⟩ rfl hl hcount
    refine ⟨⟨t, hrun, by rw [hend]; exact ⟨rfl, rfl, rfl⟩⟩, fun l₁ l₂ hsplit => ?_⟩
    obtain ⟨u, x, rest, hu, hcfg, hleft, hv⟩ := each l₁ l₂ hsplit
    refine ⟨u, _, x, hu, hv, ?_, ?_, ?_, fun hzero => ?_⟩
    · rw [← List.head?_drop, hleft]
      rfl
    · simp [sampleWritten, hcfg]
    · simp [sampleWritten, hcfg]
    · simp [sampleWritten, hcfg, hzero, convertPulse_volume_zero hc]

/-- The samples of whole frames, interleaved as PLAY.S takes them. -/
def interleaved (frames : List (Imm16 × Imm16)) : List Imm16 := frames.flatMap fun f => [f.1, f.2]

theorem interleaved_length (frames : List (Imm16 × Imm16)) : (interleaved frames).length = 2 * frames.length := by
  simp [interleaved, List.length_flatMap, Nat.mul_comm]

theorem interleaved_append (first : List (Imm16 × Imm16)) (f : Imm16 × Imm16) :
    interleaved (first ++ [f]) = interleaved first ++ [f.1, f.2] := by
  simp [interleaved]

/-- The next sample after an even number is the left one of its frame, and an odd number comes after it; the next one
after an odd number is the right one. -/
theorem interleaved_drop {x : Imm16} {rest : List Imm16} : ∀ (frames : List (Imm16 × Imm16)) (n : Nat),
    (interleaved frames).drop n = x :: rest →
    ∃ f, frames[n / 2]? = some f ∧ (n % 2 = 0 → f.1 = x ∧ rest.length % 2 = 1) ∧
      (n % 2 = 1 → f.2 = x ∧ rest.length % 2 = 0)
  | [], _, h => by simp [interleaved] at h
  | f :: frames, 0, h => by
    change f.1 :: f.2 :: interleaved frames = x :: rest at h
    cases h
    exact ⟨f, rfl, fun _ => ⟨rfl, by rw [List.length_cons, interleaved_length]; omega⟩, nofun⟩
  | f :: frames, 1, h => by
    change f.2 :: interleaved frames = x :: rest at h
    cases h
    exact ⟨f, rfl, nofun, fun _ => ⟨rfl, by rw [interleaved_length]; omega⟩⟩
  | f :: frames, n + 2, h => by
    rw [Nat.add_mod_right, Nat.add_div_right n (by decide)]
    exact interleaved_drop frames n h

/-- Settles O54: one RDST, and then the loop, whose turns of the host write the left and the right channel in turn. -/
theorem playStereoEmitsTheWholeBuffer : Obligations.PlayStereoEmitsTheWholeBuffer := by
  refine ⟨fun s frames ts hc hi hm hb hp ht => ?_, fun s buf ts hp ht hodd => ?_⟩
  · change s.host.tasks = .playS (interleaved frames) :: ts at ht
    have emits := stereoHost_emits { s.host with tasks := ts }
    have len := interleaved_length frames
    have even : (interleaved frames).length % 2 = 0 := by omega
    refine ⟨fun hr hts => ?_, fun l hts hl hcount => ?_⟩
    · have begun := (step_host hc hts hr).trans (playStereo_begins hp ht even hi hm)
      have playing : Playing (stereoHost { s.host with tasks := ts }) s.cfg (interleaved frames)
        { respond .ok (statusWord s) s with host := stereoHost { s.host with tasks := ts } (interleaved frames) } :=
        ⟨rfl, hi, hb, rfl⟩
      rw [run_succ _ begun, ← len]
      rcases List.eq_nil_or_concat' frames with rfl | ⟨first, f, rfl⟩
      · exact ⟨_, run_zero _, rfl, rfl, rfl, rfl, nofun⟩
      · rw [interleaved_append] at playing ⊢
        obtain ⟨u, hrun, hu, hut, hur, hv, hresp⟩ := playing.run_quiet emits hc (interleaved first) hts hr
        have left := hu.step_quiet emits hc hut hur
        have right := (hu.next_sample (stereoWrites 1)).step_quiet emits hc hut hur
        rw [List.length_append, run_add _ hrun]
        refine ⟨_, (run_succ 1 left).trans (run_one right), rfl, rfl, rfl, ?_, ?_⟩
        · simp [sampleWritten, hresp, hu.cfg, hv, interleaved, List.map_flatMap]
        · simp [sampleWritten, stereoWrites, hu.cfg, hv]
    · have begun := (step_turn hc hts).trans (playStereo_begins (s := { s with turns := l }) hp ht even hi hm)
      obtain ⟨⟨t, hrun, hend⟩, each⟩ :=
        run_play_turns emits hc begun ⟨rfl, hi, hb, rfl⟩ rfl hl (hcount.trans len.symm)
      refine ⟨⟨t, hrun, by rw [hend]; exact ⟨rfl, rfl, rfl⟩⟩, fun l₁ l₂ hsplit => ?_⟩
      obtain ⟨u, x, rest, hu, hcfg, hleft, hv⟩ := each l₁ l₂ hsplit
      obtain ⟨f, hf, isLeft, isRight⟩ := interleaved_drop frames _ hleft
      refine ⟨u, _, f, hu, hv, hf, fun hn => ?_, fun hn => ?_⟩
      · obtain ⟨rfl, odd⟩ := isLeft hn
        simp [sampleWritten, stereoWrites_of_odd odd, hcfg]
      · obtain ⟨rfl, even⟩ := isRight hn
        simp [sampleWritten, stereoWrites_of_even even, hcfg]
  · rw [hostTurn_begins hp ht]
    exact if_neg (by omega)

end Sys2Proof.Machine

/-! ### RAMPWAIT (43_host_sequences.md R98) -/

namespace Sys2Proof.Machine

/-- A poll that finds the controller in Idle ends the wait; SHUTDOWN's then disables the amplifier (R99, log entry
24). -/
theorem ask_poll_idle {s : State} (hf : s.fsm = .idle) (b : Bool) :
    ask .rdst (afterPoll b) s = .next { respond .ok (statusWord s) s with
      host := { s.host with
        phase := .idle, results := s.host.results ++ [.done], ampOn := s.host.ampOn && !b } } := by
  obtain ⟨-, -, idle⟩ := statusWord_bits s
  rw [ask_rdst, afterPoll, if_pos (idle.2 hf)]
  cases b with
  | true => simp [hostFinish, hostAmp]
  | false => simp [hostFinish]

/-- A poll during a ramp goes on polling. -/
theorem ask_poll_ramp {s : State} (hf : s.fsm ≠ .idle) (b : Bool) :
    ask .rdst (afterPoll b) s = .next { respond .ok (statusWord s) s with
      host := { s.host with phase := .polling b } } := by
  obtain ⟨-, -, idle⟩ := statusWord_bits s
  rw [ask_rdst, afterPoll, if_neg (mt idle.1 hf)]
  rfl

theorem hostTurn_rampWait {s : State} {ts : List HostTask} (hp : s.host.phase = .idle)
    (ht : s.host.tasks = .rampWait :: ts) : hostTurn s = ask .rdst (afterPoll false) (withTasks ts s) :=
  hostTurn_begins hp ht

theorem polling_idle {s : State} {b : Bool} (hp : s.host.phase = .polling b) (hf : s.fsm = .idle) :
    hostTurn s = .next { respond .ok (statusWord s) s with
      host := { s.host with
        phase := .idle, results := s.host.results ++ [.done], ampOn := s.host.ampOn && !b } } :=
  (hostTurn_polling hp).trans (ask_poll_idle hf b)

theorem OwesTicks.withHost {c : Params} {dir : Dir} {total k : Nat} {s : State} (h : OwesTicks c dir total k s)
    (g : HostState) : OwesTicks c dir total k { s with host := g } :=
  { h with invariant := h.invariant.withSurroundings _ _ _ _ _ g }

/-- A running ramp owes what it has not yet stepped. -/
theorem Invariant.owesTicks {s : State} {dir : Dir} (h : Invariant s) (hf : s.fsm = dirFsm dir) :
    OwesTicks s.cfg dir (silences s + dirSilences dir) (s.cfg.stepCount - s.progress.toNat) s := by
  have hlt := h.progress_lt
  exact ⟨rfl, h, h.timer_inited (h.ramp_timerRun hf), h.ramp_muted hf, fun _ => ⟨hf, by omega, rfl⟩, by omega⟩

/-- While the running timer pays what is owed, the host and its turns wait (log entry 3). -/
theorem OwesTicks.run_timer_host {c : Params} {dir : Dir} {total : Nat} (hc : legal c) :
    ∀ (k : Nat) {s : State}, OwesTicks c dir total k s → s.turns = [] →
    ∃ t, run k s = .next t ∧ OwesTicks c dir total 0 t ∧ t.turns = [] ∧ t.host = s.host := by
  intro k
  induction k with
  | zero => exact fun h hts => ⟨_, run_zero _, h, hts, rfl⟩
  | succ k ih =>
    intro s h hts
    obtain ⟨hf, -⟩ := h.running k.succ_pos
    obtain ⟨-, -, -, -, -, -, -, hturns, hhost⟩ := timerTurn_frame s
    obtain ⟨t, hrun, ht, htt, hth⟩ := ih (h.tick hc) (hturns.trans hts)
    rw [run_succ k (step_timer (h.cfg ▸ hc) hts (h.invariant.ramp_timerRun hf))]
    exact ⟨t, hrun, ht, htt, hth.trans hhost⟩

/-- The owed ticks and one poll end a wait, begun or not: `g` is the host as it makes that poll. -/
theorem OwesTicks.run_timer_poll {c : Params} {dir : Dir} {total k : Nat} {s : State} {g : HostState} {b : Bool}
    (hc : legal c) (h : OwesTicks c dir total k s) (hts : s.turns = [])
    (poll : ∀ u, u.host = s.host → hostTurn u = ask .rdst (afterPoll b) { u with host := g }) :
    ∃ t, run (k + 1) s = .next t ∧ OwesTicks c dir total 0 t ∧
      t.host = { g with phase := .idle, results := g.results ++ [.done], ampOn := g.ampOn && !b } := by
  obtain ⟨u, hrun, hu, hut, huh⟩ := h.run_timer_host hc k hts
  obtain ⟨hidle, -⟩ := hu.ended rfl
  have polled := (step_host (hu.cfg ▸ hc) hut (hu.invariant.idle_timerRun hidle)).trans
    ((poll u huh).trans (ask_poll_idle (s := { u with host := g }) hidle b))
  rw [run_add k hrun]
  exact ⟨_, run_one polled, ((hu.withHost g).withSurroundings _ _).withHost _, rfl⟩

/-- Settles O58: a poll reads FSM, and while the ramp runs the timer goes first. -/
theorem rampwaitEndsWithTheRamp : Obligations.RampwaitEndsWithTheRamp := by
  refine ⟨fun s ts hp ht => ?_, fun s b hp => ?_, fun s ts hc h hts hr hp ht => ?_, fun s b hc h hts hr hp => ?_⟩
  · have begun := hostTurn_rampWait hp ht
    by_cases hf : s.fsm = .idle
    · exact ⟨_, begun.trans (ask_poll_idle (s := withTasks ts s) hf false), rfl, rfl,
        fun _ => ⟨rfl, rfl⟩, fun hne => absurd hf hne⟩
    · exact ⟨_, begun.trans (ask_poll_ramp (s := withTasks ts s) hf false), rfl, rfl,
        fun heq => absurd heq hf, fun _ => ⟨rfl, rfl⟩⟩
  · by_cases hf : s.fsm = .idle
    · exact ⟨_, polling_idle hp hf, rfl, iff_of_true rfl hf,
        fun hne => absurd hf hne, fun _ => rfl⟩
    · exact ⟨_, (hostTurn_polling hp).trans (ask_poll_ramp hf b), rfl, iff_of_false nofun hf,
        fun _ => by simp [← hp], fun heq => absurd heq hf⟩
  · obtain ⟨dir, hf⟩ := exists_dirFsm (h.timer_iff.1 hr)
    obtain ⟨t, hrun, hend, hhost⟩ := (h.owesTicks hf).run_timer_poll (b := false)
      (g := { s.host with tasks := ts }) hc hts
      fun u hu => by rw [← hu]; exact hostTurn_rampWait (by rw [hu, hp]) (by rw [hu, ht])
    obtain ⟨hidle, -⟩ := hend.ended rfl
    exact ⟨t, hrun, hidle, by simp [hhost]⟩
  · obtain ⟨dir, hf⟩ := exists_dirFsm (h.timer_iff.1 hr)
    obtain ⟨t, hrun, hend, hhost⟩ := (h.owesTicks hf).run_timer_poll (b := b) (g := s.host) hc hts
      fun u hu => by rw [← hu]; exact hostTurn_polling (by rw [hu, hp])
    obtain ⟨hidle, -⟩ := hend.ended rfl
    refine ⟨t, hrun, hidle, by simp [hhost], by simp [hhost], ?_⟩
    rintro rfl
    simp [hhost]

/-! ### BRINGUP and SHUTDOWN (43_host_sequences.md R99) -/

section Bringup

variable {s : State} {ts : List HostTask}

/-- The host of a BRINGUP whose INIT has succeeded: the amplifier is on and UNMUTE is next. -/
def unmutingHost (h : HostState) (ts : List HostTask) : HostState :=
  { h with tasks := ts, phase := .unmuting, ampOn := true }

/-- The host once it has returned from BRINGUP or SHUTDOWN. -/
def doneHost (h : HostState) : HostState := { h with phase := .idle, results := h.results ++ [.done] }

theorem hostTurn_bringup (hp : s.host.phase = .idle) (ht : s.host.tasks = .bringup :: ts) :
    hostTurn s = ask .init afterInit (withTasks ts s) :=
  hostTurn_begins hp ht

theorem bringup_first (hp : s.host.phase = .idle) (ht : s.host.tasks = .bringup :: ts) (hi : s.inited = false)
    (hb : BothReady s) :
    hostTurn s = .next { s with
      pwmL := some (silencePulse s.cfg), pwmR := some (silencePulse s.cfg), inited := true
      events := s.events ++ [.pwmWritten .left (silencePulse s.cfg), .pwmWritten .right (silencePulse s.cfg)]
      responses := s.responses ++ [⟨.ok, 0#32⟩]
      host := unmutingHost s.host ts } := by
  obtain ⟨hl, hr⟩ := hb
  have first := exec_init_first (s := withTasks ts s) hi
  rw [initDevice_ready (s := withTasks ts s) hl hr] at first
  exact (hostTurn_bringup hp ht).trans (ask_exec rfl first rfl _)

theorem bringup_notReady (hp : s.host.phase = .idle) (ht : s.host.tasks = .bringup :: ts) (hi : s.inited = false)
    (hb : ¬ BothReady s) :
    hostTurn s = .next { respond .errInit (notReadyMask s.pwmOkL s.pwmOkR) s with
      host := { s.host with
        tasks := ts, phase := .idle
        results := s.host.results ++ [.initError (notReadyMask s.pwmOkL s.pwmOkR)] } } := by
  have first := exec_init_first (s := withTasks ts s) hi
  rw [initDevice_notReady (s := withTasks ts s) hb] at first
  exact (hostTurn_bringup hp ht).trans (ask_exec rfl first rfl _)

theorem bringup_again (hp : s.host.phase = .idle) (ht : s.host.tasks = .bringup :: ts) (hi : s.inited = true) :
    hostTurn s = .next { respond .ok 0#32 s with host := unmutingHost s.host ts } :=
  (hostTurn_bringup hp ht).trans
    (ask_exec rfl (exec_init_done (s := withTasks ts s) hi) rfl _)

theorem unmuting_starts (hp : s.host.phase = .unmuting) (hi : s.inited = true) (hm : s.muted = true) :
    hostTurn s = .next { respond .ok 1#32 (rampStart .toUnmute s) with host := doneHost s.host } := by
  have started := exec_dirCommand_starts (dir := .toUnmute) hi (by simp [hm, dirMuted])
  rw [hostTurn_unmuting hp, ask_exec (i := .unmute) rfl started rfl, hostFinish, respond_host,
    (rampStart_sameSurroundings .toUnmute s).host]
  rfl

theorem unmuting_noop (hp : s.host.phase = .unmuting) (hi : s.inited = true) (hm : s.muted = false) :
    hostTurn s = .next { respond .ok 0#32 s with host := doneHost s.host } :=
  (hostTurn_unmuting hp).trans (ask_exec (i := .unmute) rfl (exec_dirCommand_noop (dir := .toUnmute) hi hm) rfl _)

end Bringup

section Shutdown

variable {s : State} {ts : List HostTask}

/-- The host of a SHUTDOWN that has issued its MUTE and waits for the ramp. -/
def waitingHost (h : HostState) (ts : List HostTask) : HostState := { h with tasks := ts, phase := .polling true }

theorem hostTurn_shutdown (hp : s.host.phase = .idle) (ht : s.host.tasks = .shutdown :: ts) :
    hostTurn s = ask .mute (fun _ => hostPhase (.polling true)) (withTasks ts s) :=
  hostTurn_begins hp ht

theorem shutdown_starts (hp : s.host.phase = .idle) (ht : s.host.tasks = .shutdown :: ts) (hi : s.inited = true)
    (hm : s.muted = false) :
    hostTurn s = .next { respond .ok 1#32 (rampStart .toMute s) with host := waitingHost s.host ts } := by
  have started := exec_dirCommand_starts (s := withTasks ts s) (dir := .toMute) hi
    (by simp [withTasks, hm, dirMuted])
  rw [rampStart_eq] at started ⊢
  exact (hostTurn_shutdown hp ht).trans (ask_exec (i := .mute) rfl started rfl _)

/-- MUTE of a muted device, initialised or not, is only answered. -/
theorem shutdown_answered (hp : s.host.phase = .idle) (ht : s.host.tasks = .shutdown :: ts) (hm : s.muted = true) :
    ∃ code, hostTurn s = .next { respond code 0#32 s with host := waitingHost s.host ts } := by
  rw [hostTurn_shutdown hp ht]
  rcases Bool.eq_false_or_eq_true s.inited with hi | hi
  · exact ⟨_, ask_exec (i := .mute) rfl (exec_dirCommand_noop (s := withTasks ts s) (dir := .toMute) hi hm) rfl _⟩
  · exact ⟨_, ask_notReady (s := withTasks ts s) rfl hi _⟩

/-- After SHUTDOWN's MUTE the owed ticks and one poll end it at volume 0 with the amplifier off. -/
theorem shutdown_ends {u : State} {c : Params} {total k : Nat} {h : HostState} (hc : legal c) (hs : step s = .next u)
    (owed : OwesTicks c .toMute total k u) (hts : u.turns = []) (hhost : u.host = waitingHost h ts) :
    ∃ t, run (k + 2) s = .next t ∧ t.host.ampOn = false ∧ t.host.phase = .idle ∧ t.host.tasks = ts ∧
      t.host.results = h.results ++ [.done] ∧ t.fsm = .idle ∧ t.timerRun = false ∧ t.vol = 0#8 ∧ t.muted = true ∧
      silences t = total := by
  obtain ⟨t, hrun, hend, hth⟩ := owed.run_timer_poll (b := true) (g := u.host) hc hts
    fun v hv => by rw [← hv]; exact hostTurn_polling (by rw [hv, hhost]; rfl)
  obtain ⟨hidle, hvol, hsil⟩ := hend.ended rfl
  refine ⟨t, (run_succ (k + 1) hs).trans hrun, ?_, ?_, ?_, ?_, hidle, hend.invariant.idle_timerRun hidle,
    BitVec.eq_of_toNat_eq hvol, hend.muted, hsil⟩ <;> simp [hth, hhost, waitingHost]

end Shutdown

/-- With the timer stopped the controller is in Idle (10_state.md R20 item 4). -/
theorem Invariant.idle_of_stopped {s : State} (h : Invariant s) (hr : s.timerRun = false) : s.fsm = .idle := by
  by_contra hne
  simp [h.timer_iff.2 hne] at hr

/-- Before INIT the device is muted (10_state.md R20 item 6). -/
theorem Invariant.muted_of_not_inited {s : State} (h : Invariant s) (hi : s.inited = false) : s.muted = true := by
  by_contra hm
  simp [h.unmuted_inited (by simpa using hm)] at hi

/-- Settles O60: BRINGUP is INIT and UNMUTE, SHUTDOWN is MUTE, the owed ticks and one poll. -/
theorem bringupAndShutdownRunTheirCommands : Obligations.BringupAndShutdownRunTheirCommands := by
  intro s ts hc h hp
  refine ⟨fun hts hr => ⟨fun ht hi hb => ?_, fun ht hi hb => ?_, fun ht hi => ?_, fun ht hi hm => ?_, fun ht hm => ?_⟩,
    fun hr => ⟨fun l hts ht => ?_, fun hts ht => ?_⟩⟩
  · refine ⟨_, run_two_hosts (l := []) hc (.inr ⟨hts, hr⟩) (bringup_first hp ht hi hb) rfl rfl rfl
      (unmuting_starts rfl rfl (h.muted_of_not_inited hi)), ?_⟩
    simp [rampStart_eq, dirMuted, dirFsm, doneHost, unmutingHost]
  · exact ⟨_, _, run_one ((step_host hc hts hr).trans (bringup_notReady hp ht hi hb)), notReadyMask_toNat _ _, hi,
      rfl, rfl, rfl, rfl, rfl, rfl, rfl⟩
  · have begun := bringup_again (s := { s with turns := s.turns.tail }) hp ht hi
    cases hm : s.muted with
    | true =>
      refine ⟨_, run_two_hosts (l := []) hc (.inr ⟨hts, hr⟩) begun rfl rfl rfl (unmuting_starts rfl hi hm), ?_⟩
      simp [rampStart_eq, dirMuted, dirFsm, doneHost, unmutingHost, hi, hr]
    | false =>
      refine ⟨_, run_two_hosts (l := []) hc (.inr ⟨hts, hr⟩) begun rfl rfl rfl (unmuting_noop rfl hi hm), ?_⟩
      simp [doneHost, unmutingHost, hi, hm, hr, h.idle_of_stopped hr]
  · have begun := (step_host hc hts hr).trans (shutdown_starts hp ht hi hm)
    obtain ⟨t, hrun, hamp, hphase, htasks, hres, hidle, -, hend⟩ := shutdown_ends hc begun
      ((owesTicks_rampStart hc h hi .toMute).withHost _) ((rampStart_sameSurroundings .toMute s).turns.trans hts) rfl
    exact ⟨t, hrun, hamp, hphase, htasks, hres, hidle, hend⟩
  · obtain ⟨code, begun⟩ := shutdown_answered (s := { s with turns := s.turns.tail }) hp ht hm
    have hidle := h.idle_of_stopped hr
    refine ⟨_, run_two_hosts (l := []) hc (.inr ⟨hts, hr⟩) begun rfl rfl rfl
      (polling_idle rfl hidle), ?_⟩
    simp [waitingHost, hidle, hm]
  · have hi := h.timer_inited hr
    have begun := bringup_again (s := { s with turns := s.turns.tail }) hp ht hi
    obtain ⟨dir, hf⟩ := exists_dirFsm (h.timer_iff.1 hr)
    have hm := h.ramp_muted hf
    cases dir with
    | toMute =>
      refine ⟨_, run_two_hosts hc (.inl hts) begun rfl rfl rfl (unmuting_starts rfl hi hm), ?_⟩
      simp [rampStart_eq, dirMuted, dirFsm, doneHost, unmutingHost, hi, hr, hf]
    | toUnmute =>
      refine ⟨_, run_two_hosts hc (.inl hts) begun rfl rfl rfl (unmuting_noop rfl hi hm), ?_⟩
      simp [dirMuted, dirFsm, doneHost, unmutingHost, hi, hm, hr, hf]
  · obtain ⟨dir, hf⟩ := exists_dirFsm (h.timer_iff.1 hr)
    have hm := h.ramp_muted hf
    cases dir with
    | toMute =>
      obtain ⟨code, first⟩ := shutdown_answered (s := { s with turns := [] }) hp ht hm
      rw [if_pos (by exact hf)]
      exact shutdown_ends hc ((step_turn hc hts).trans first)
        (((h.owesTicks hf).withSurroundings _ []).withHost _) rfl rfl
    | toUnmute =>
      have first := shutdown_starts (s := { s with turns := [] }) hp ht (h.timer_inited hr) hm
      rw [if_neg (by simp [hf, dirFsm])]
      exact shutdown_ends hc ((step_turn hc hts).trans first)
        ((owesTicks_rampStart (s := { s with turns := [] }) hc (h.withSurroundings _ _ _ _ [] _) (h.timer_inited hr)
          .toMute).withHost _) (rampStart_sameSurroundings .toMute _).turns rfl

end Sys2Proof.Machine

/-! ### The answer of every word (60_exceptions.md R105) -/

namespace Sys2Proof.Machine

/-- A write of the emission is refused by its channel's input (40_convert.md R67). -/
def RefusedWrite (i : Instr) (s : State) : Prop :=
  (∃ imm, i = .emitm imm ∧ ¬ BothReady s) ∨ (∃ imm, i = .emitl imm ∧ s.pwmOkL = false) ∨
    ∃ imm, i = .emitr imm ∧ s.pwmOkR = false

/-- The ways a legal command is answered, one per code of 60_exceptions.md R105 and one per channel for a refused write:
the cause, the state it leaves and the response. -/
inductive Answered (i : Instr) (s : State) : State → Response → Prop
  /-- None of the three causes below holds. -/
  | ok {t : State} {d : Word} : (Gated i = true → s.inited = true) → (i = .init → s.inited = false → BothReady s) →
      ¬ RefusedWrite i s → Answered i s t ⟨.ok, d⟩
  /-- The gate is closed (42_control.md R87). -/
  | notReady : Gated i = true → s.inited = false → Answered i s (respond .errNotReady 0#32 s) ⟨.errNotReady, 0#32⟩
  /-- INIT finds an input at 0 (42_control.md R85). -/
  | initFailed : i = .init → s.inited = false → ¬ BothReady s →
      Answered i s (respond .errInit (notReadyMask s.pwmOkL s.pwmOkR) s) ⟨.errInit, notReadyMask s.pwmOkL s.pwmOkR⟩
  /-- The left write fails, and nothing is tried after it (40_convert.md R69, R70). -/
  | leftRefused {t : State} : s.inited = true → RefusedWrite i s → s.pwmOkL = false →
      t.events = s.events ++ [.pwmWriteFailed .left] → Answered i s t ⟨.errHwWrite, 0#32⟩
  /-- The right write fails; a left one before it stays (40_convert.md R69, R71). -/
  | rightRefused {t : State} : s.inited = true → RefusedWrite i s → s.pwmOkR = false → t.pwmR = s.pwmR →
      t.events.getLast? = some (.pwmWriteFailed .right) → Answered i s t ⟨.errHwWrite, 1#32⟩

/-- One response more, given in one of those ways. -/
def AnsweredOnce (i : Instr) (s t : State) : Prop := ∃ r, t.responses = s.responses ++ [r] ∧ Answered i s t r

/-- A command that has no error of its own answers OK once it is past the gate. -/
theorem answeredOnce_ok {i : Instr} {s t : State} {d : Word} (ht : t.responses = s.responses ++ [⟨.ok, d⟩])
    (hg : Gated i = true → s.inited = true) (hinit : i ≠ .init) (hw : ¬ RefusedWrite i s) : AnsweredOnce i s t :=
  ⟨_, ht, .ok hg (fun h => absurd h hinit) hw⟩

theorem gated_answeredOnce {i : Instr} {s : State} {body : State → State} (hg : Gated i = true)
    (h : s.inited = true → AnsweredOnce i s (body s)) : AnsweredOnce i s (gated body s) := by
  cases hi : s.inited with
  | true => rw [gated_ready hi]; exact h hi
  | false => rw [gated_notReady hi]; exact ⟨_, rfl, .notReady hg hi⟩

theorem execInit_answeredOnce (s : State) :
    AnsweredOnce .init s (if s.inited then respond .ok 0#32 s else initDevice s) := by
  have noWrite : ¬ RefusedWrite .init s := by simp [RefusedWrite]
  cases hi : s.inited with
  | true => exact ⟨_, rfl, .ok nofun (by simp [hi]) noWrite⟩
  | false =>
    rw [if_neg (by simp)]
    by_cases hb : BothReady s
    · rw [initDevice_ready hb.1 hb.2]
      exact ⟨_, rfl, .ok nofun (fun _ _ => hb) noWrite⟩
    · rw [initDevice_notReady hb]
      exact ⟨_, rfl, .initFailed rfl hi hb⟩

/-- The eight indices of RDCFG have their words, whatever the configuration (10_state.md R19). -/
theorem exists_cfgWord (c : Params) {n : Nat} (hn : n ≤ 7) : ∃ d, cfgWord c n = some d := by
  interval_cases n <;> exact ⟨_, rfl⟩

/-- EMITM: the left input decides first, then the right one (40_convert.md R69, 60_exceptions.md R111). -/
theorem emitBoth_answeredOnce {s : State} (hi : s.inited = true) (imm : Imm16) (p : Pulse) :
    AnsweredOnce (.emitm imm) s (emitBoth p s) := by
  cases hl : s.pwmOkL with
  | false =>
    rw [emitBoth_leftRefused hl]
    exact ⟨_, rfl, .leftRefused hi (by simp [RefusedWrite, BothReady, hl]) hl rfl⟩
  | true =>
    rw [emitBoth_leftAccepted hl]
    cases hr : s.pwmOkR with
    | false => exact ⟨_, rfl, .rightRefused hi (by simp [RefusedWrite, BothReady, hr]) hr rfl (by simp)⟩
    | true => exact answeredOnce_ok rfl (fun _ => hi) nofun (by simp [RefusedWrite, BothReady, hl, hr])

theorem emitLeft_answeredOnce {s : State} (hi : s.inited = true) (imm : Imm16) (p : Pulse) :
    AnsweredOnce (.emitl imm) s (emitChannel .left p s) := by
  rw [emitChannel_left]
  cases hl : s.pwmOkL with
  | false => exact ⟨_, rfl, .leftRefused hi (by simp [RefusedWrite, hl]) hl rfl⟩
  | true => exact answeredOnce_ok rfl (fun _ => hi) nofun (by simp [RefusedWrite, hl])

theorem emitRight_answeredOnce {s : State} (hi : s.inited = true) (imm : Imm16) (p : Pulse) :
    AnsweredOnce (.emitr imm) s (emitChannel .right p s) := by
  rw [emitChannel_right]
  cases hr : s.pwmOkR with
  | false => exact ⟨_, rfl, .rightRefused hi (by simp [RefusedWrite, hr]) hr rfl (by simp)⟩
  | true => exact answeredOnce_ok rfl (fun _ => hi) nofun (by simp [RefusedWrite, hr])

theorem rampRequest_answeredOnce {dir : Dir} {s : State} (hi : s.inited = true) :
    AnsweredOnce (dirCommand dir) s (rampRequest dir s) := by
  have noError : dirCommand dir ≠ .init ∧ ¬ RefusedWrite (dirCommand dir) s := by
    cases dir <;> simp [dirCommand, RefusedWrite]
  obtain ⟨noInit, noWrite⟩ := noError
  unfold rampRequest
  split
  · exact answeredOnce_ok rfl (fun _ => hi) noInit noWrite
  · exact answeredOnce_ok (by rw [rampStart_eq]; rfl) (fun _ => hi) noInit noWrite

/-- Every legal command is answered once, in one of the ways of the table (60_exceptions.md R105). -/
theorem exec_answeredOnce {i : Instr} {s t : State} (hwf : i.wellFormed = true) (h : exec i s = .next t) :
    AnsweredOnce i s t := by
  cases i with
  | init => cases h; exact execInit_answeredOnce s
  | rdst => cases h; exact answeredOnce_ok rfl nofun nofun (by simp [RefusedWrite])
  | rdcfg idx =>
    obtain ⟨d, hd⟩ := exists_cfgWord s.cfg (of_decide_eq_true hwf)
    rw [exec_rdcfg_some hd] at h
    cases h
    exact answeredOnce_ok rfl nofun nofun (by simp [RefusedWrite])
  | conv vol8 imm16 => cases h; exact answeredOnce_ok rfl nofun nofun (by simp [RefusedWrite])
  | emitm imm16 => cases h; exact gated_answeredOnce rfl fun hi => emitBoth_answeredOnce hi imm16 _
  | emitl imm16 => cases h; exact gated_answeredOnce rfl fun hi => emitLeft_answeredOnce hi imm16 _
  | emitr imm16 => cases h; exact gated_answeredOnce rfl fun hi => emitRight_answeredOnce hi imm16 _
  | mute => cases h; exact gated_answeredOnce rfl (rampRequest_answeredOnce (dir := .toMute))
  | unmute => cases h; exact gated_answeredOnce rfl (rampRequest_answeredOnce (dir := .toUnmute))
  | setvol imm16 =>
    cases h
    exact gated_answeredOnce rfl fun hi => answeredOnce_ok rfl (fun _ => hi) nofun (by simp [RefusedWrite])

section Causes

variable {i : Instr} {s t : State} {r : Response} (h : Answered i s t r)
include h

/-- A legal command is never answered ERR_ILLEGAL. -/
theorem Answered.code_ne_errIllegal : r.code ≠ .errIllegal := by
  cases h <;> nofun

/-- ERR_NOT_READY needs INITED = 0, as ERR_INIT does, but INIT itself is not gated. -/
theorem Answered.errNotReady_iff : r.code = .errNotReady ↔ Gated i = true ∧ s.inited = false := by
  cases h with
  | ok hgate _ _ => simpa using hgate
  | notReady hg hi => simp [hg, hi]
  | initFailed hinit _ _ => simp [hinit, Gated]
  | leftRefused hi | rightRefused hi => simp [hi]

theorem Answered.errInit_iff : r.code = .errInit ↔ i = .init ∧ s.inited = false ∧ ¬ BothReady s := by
  cases h with
  | ok _ hinit _ => simpa using hinit
  | notReady hg _ => simp [show i ≠ .init by rintro rfl; cases hg]
  | initFailed hinit hi hb => simp [hinit, hi, hb]
  | leftRefused hi | rightRefused hi => simp [hi]

/-- ERR_HW_WRITE needs INITED = 1, which the two codes before it exclude. -/
theorem Answered.errHwWrite_iff : r.code = .errHwWrite ↔ s.inited = true ∧ RefusedWrite i s := by
  cases h with
  | ok _ _ hwrite => simp [hwrite]
  | notReady _ hi => simp [hi]
  | initFailed _ hi _ => simp [hi]
  | leftRefused hi hw | rightRefused hi hw => simp [hi, hw]

/-- A gated command before INIT, and an INIT that fails, leave nothing but their response. -/
theorem Answered.refusal_eq (hc : r.code = .errNotReady ∨ r.code = .errInit) :
    t = { s with responses := s.responses ++ [r] } := by
  cases h with
  | notReady | initFailed => rfl
  | ok | leftRefused | rightRefused => simp at hc

theorem Answered.errNotReady_data (hc : r.code = .errNotReady) : r.data = 0#32 := by
  cases h with
  | notReady => rfl
  | ok | initFailed | leftRefused | rightRefused => cases hc

theorem Answered.errInit_data (hc : r.code = .errInit) : r.data = notReadyMask s.pwmOkL s.pwmOkR := by
  cases h with
  | initFailed => rfl
  | ok | notReady | leftRefused | rightRefused => cases hc

/-- ERR_HW_WRITE names the channel whose failed write ends the trace. -/
theorem Answered.errHwWrite_data (hc : r.code = .errHwWrite) :
    (r.data = 0#32 ∧ s.pwmOkL = false ∧ t.events = s.events ++ [.pwmWriteFailed .left]) ∨
      (r.data = 1#32 ∧ s.pwmOkR = false ∧ t.pwmR = s.pwmR ∧ t.events.getLast? = some (.pwmWriteFailed .right)) := by
  cases h with
  | leftRefused _ _ hl he => exact .inl ⟨rfl, hl, he⟩
  | rightRefused _ _ hr hreg he => exact .inr ⟨rfl, hr, hreg, he⟩
  | ok | notReady | initFailed => cases hc

end Causes

/-- Settles O48: the decoder decides first, then INITED and the gate, then the inputs; so each code has its own cause. -/
theorem everyCommandAnswersOnce : Obligations.EveryCommandAnswersOnce := by
  intro w s
  cases hd : decode w with
  | error e =>
    have illegal : IllegalWord w := (illegalWordsAreExactlyTheFiveCases w).1.1 ⟨e, hd⟩
    exact ⟨_, _, command_illegal hd s, rfl, by simp [illegal, respondIllegal, respond, codeNumber]⟩
  | ok i =>
    have legalWord : ¬ IllegalWord w := (not_illegalWord_iff w).2 ⟨i, hd⟩
    obtain ⟨hwf, -⟩ := encode_decode hd
    obtain ⟨t, ht⟩ := exec_next i s
    obtain ⟨r, hr, answer⟩ := exec_answeredOnce hwf ht
    have noIllegal := answer.code_ne_errIllegal
    refine ⟨t, r, (command_legal hd s).trans ht, hr, iff_of_false noIllegal legalWord, ?_, ?_, ?_,
      fun hc => answer.errNotReady_data (hc.resolve_left noIllegal), fun hc => ?_, answer.errHwWrite_data,
      fun hc => answer.refusal_eq (hc.resolve_left noIllegal), by decide⟩
    · simpa using answer.errNotReady_iff
    · simpa using answer.errInit_iff
    · simpa [RefusedWrite] using answer.errHwWrite_iff
    · rw [answer.errInit_data hc, notReadyMask_toNat]

end Sys2Proof.Machine

/-! ### Only reset undoes (70_reset_and_hazards.md R120) -/

namespace Sys2Proof.Machine

/-- Each PWM register that is written in the first state is written in the second. -/
def KeepsWritten (s t : State) : Prop :=
  (s.pwmL.isSome = true → t.pwmL.isSome = true) ∧ (s.pwmR.isSome = true → t.pwmR.isSome = true)

theorem keepsWritten_of_same {s t : State} (hl : t.pwmL = s.pwmL) (hr : t.pwmR = s.pwmR) : KeepsWritten s t :=
  ⟨fun h => hl ▸ h, fun h => hr ▸ h⟩

theorem CommandEffect.keepsWritten {i : Instr} {s t : State} (hc : legal s.cfg) (he : CommandEffect i s t) :
    KeepsWritten s t := by
  cases he with
  | inited => exact ⟨fun _ => rfl, fun _ => rfl⟩
  | emitted imm pl pr es r _ hl hr =>
    exact ⟨(keptOrInRange_of_emitted hc hl).isSome, (keptOrInRange_of_emitted hc hr).isSome⟩
  | ramped dir => exact keepsWritten_of_same (by simp [rampStart_eq]) (by simp [rampStart_eq])
  | answered | volumeSet => exact keepsWritten_of_same rfl rfl

theorem command_keepsWritten {w : Word} {s t : State} (hc : legal s.cfg) (h : command w s = .next t) :
    KeepsWritten s t := by
  unfold command at h
  split at h
  · exact (exec_effect h).keepsWritten hc
  · cases h
    exact keepsWritten_of_same rfl rfl

theorem HostMove.keepsWritten {s t : State} (hc : legal s.cfg) (h : HostMove s t) : KeepsWritten s t :=
  h.elim (fun _ => keepsWritten_of_same rfl rfl)
    fun _ g _ u hu => command_keepsWritten (s := { s with host := g }) (t := u) hc hu

/-- The timer writes the registers only in the silence action of a mute ramp (41_ramp.md R80). -/
theorem timerTurn_keepsWritten {s : State} (hc : legal s.cfg) : KeepsWritten s (timerTurn s) := by
  rcases timerTurn_cases s with ⟨-, same⟩ | ⟨dir, v, -, -, -, ⟨-, going⟩ | ⟨-, last⟩⟩
  · rw [same]
    exact keepsWritten_of_same rfl rfl
  · rw [going]
    exact keepsWritten_of_same rfl rfl
  · rw [last]
    cases dir with
    | toMute =>
      have silent := silencePulse_inRange hc
      rw [rampEnd_toMute]
      exact ⟨(KeptOrInRange.attempt silent s.pwmOkL s.pwmL).isSome,
        (KeptOrInRange.attempt silent s.pwmOkR s.pwmR).isSome⟩
    | toUnmute =>
      rw [rampEnd_toUnmute]
      exact keepsWritten_of_same rfl rfl

/-- Settles O13: no step but a reset takes INITED or a written register back. -/
theorem onlyResetUndoesInitAndWrites : Obligations.OnlyResetUndoesInitAndWrites := by
  intro s t h hreset
  refine ⟨step_keeps_inited h hreset, ?_⟩
  obtain ⟨hc, ts, ⟨w, hw⟩ | rfl | hhost | ⟨-, rfl⟩ | ⟨l, r, rfl⟩ | ⟨hhead, -⟩⟩ := step_cases h
  · exact command_keepsWritten (s := { s with turns := ts }) hc hw
  · exact keepsWritten_of_same rfl rfl
  · exact hhost.keepsWritten (s := { s with turns := ts }) hc
  · exact timerTurn_keepsWritten (s := { s with turns := ts }) hc
  · exact keepsWritten_of_same rfl rfl
  · exact absurd hhead hreset

end Sys2Proof.Machine

/-! ### The end of a run (70_reset_and_hazards.md R131) -/

namespace Sys2Proof.Machine

/-- A host without a task does nothing. -/
theorem hostTurn_waits {s : State} (hp : s.host.phase = .idle) (ht : s.host.tasks = []) : hostTurn s = .next s := by
  simp only [hostTurn, hp, ht]

/-- A stopped timer does nothing (41_ramp.md R78, log entry 6). -/
theorem timerTurn_stopped {s : State} (hr : s.timerRun = false) : timerTurn s = s := by
  simp [timerTurn, hr]

/-- With no command to come and the timer stopped, a turn other than a reset changes the inputs at most. -/
theorem takeTurn_commandless {x : Turn} {s : State} (hx : bringsCommand x = false) (hreset : x ≠ .reset)
    (hp : s.host.phase = .idle) (ht : s.host.tasks = []) (hr : s.timerRun = false) :
    ∃ l r, takeTurn x s = .next { s with pwmOkL := l, pwmOkR := r } := by
  cases x with
  | word | submit => cases hx
  | bytes bs =>
    have noWord : wordOfBytes bs = none := Option.isNone_iff_eq_none.1 (by simpa [bringsCommand] using hx)
    exact ⟨s.pwmOkL, s.pwmOkR, by simp [takeTurn, deliver, noWord]⟩
  | host => exact ⟨s.pwmOkL, s.pwmOkR, hostTurn_waits hp ht⟩
  | tick => exact ⟨s.pwmOkL, s.pwmOkR, by rw [takeTurn, timerTurn_stopped hr]⟩
  | env l r => exact ⟨l, r, rfl⟩
  | reset => exact absurd rfl hreset

/-- A tick of a running ramp counts PROGRESS up or ends in Idle, so it is a change (41_ramp.md R78). -/
theorem Invariant.timerTurn_ne {s : State} (h : Invariant s) (hc : legal s.cfg) (hr : s.timerRun = true) :
    Machine.timerTurn s ≠ s := by
  intro same
  have hlt := h.progress_lt
  obtain ⟨dir, hf⟩ := exists_dirFsm (h.timer_iff.1 hr)
  by_cases hp : s.progress.toNat + 1 = s.cfg.stepCount
  · rw [timerTurn_lastStep hr hf hp] at same
    have ended := congrArg State.fsm same
    rw [rampEnd_fsm, hf] at ended
    exact dirFsm_ne_idle dir ended.symm
  · have counted := nextProgress_toNat hc (s := s) (by omega)
    rw [timerTurn_midRamp hr hf hp] at same
    have stuck := congrArg (·.progress.toNat) same
    dsimp only at stuck
    omega

/-- Settles O49: of a finished machine's turns only new inputs and a reset leave a trace. -/
theorem finishedMachineWaits : Obligations.FinishedMachineWaits := by
  intro s hc
  refine ⟨fun ⟨hturns, htasks, hphase, hr⟩ => ?_, fun hr ⟨_, _, _, hstopped⟩ => ?_, fun hts hr =>
    ⟨step_timer hc hts hr, fun h => h.timerTurn_ne hc hr⟩⟩
  · cases hts : s.turns with
    | nil =>
      exact ⟨s, (step_host hc hts hr).trans (hostTurn_waits hphase htasks), ⟨hturns, htasks, hphase, hr⟩,
        fun _ => rfl, fun _ => by rw [List.tail_nil, ← hts]⟩
    | cons x ts =>
      rw [hts] at hturns
      obtain ⟨hx, hrest⟩ := List.forall_mem_cons.1 hturns
      rw [step_turn hc hts]
      by_cases hreset : x = .reset
      · subst hreset
        exact ⟨_, rfl, ⟨hrest, htasks, hphase, rfl⟩, nofun, fun hne => absurd rfl hne⟩
      · obtain ⟨l, r, taken⟩ := takeTurn_commandless (s := { s with turns := ts }) hx hreset hphase htasks hr
        exact ⟨_, taken, ⟨hrest, htasks, hphase, hr⟩, nofun, fun _ => rfl⟩
  · simp [hr] at hstopped

end Sys2Proof.Machine

/-! ### The amplifier (70_reset_and_hazards.md R127, 43_host_sequences.md R99) -/

namespace Sys2Proof.Machine

/-- No turn but the host's moves the host's phase or its amplifier. -/
theorem takeTurn_keeps_phase {x : Turn} {s t : State} (hx : x ≠ .host) (h : takeTurn x s = .next t) :
    t.host.phase = s.host.phase ∧ t.host.ampOn = s.host.ampOn := by
  have commanded {w : Word} (hw : command w s = .next t) :
      t.host.phase = s.host.phase ∧ t.host.ampOn = s.host.ampOn := by
    rw [(command_sameSurroundings hw).host]
    exact ⟨rfl, rfl⟩
  cases x with
  | word w => exact commanded h
  | bytes bs =>
    simp only [takeTurn, deliver] at h
    split at h
    · exact commanded h
    · cases h
      exact ⟨rfl, rfl⟩
  | host => exact absurd rfl hx
  | tick =>
    cases h
    obtain ⟨-, -, -, -, -, -, -, -, hhost⟩ := timerTurn_frame s
    rw [hhost]
    exact ⟨rfl, rfl⟩
  | submit | env | reset => cases h; exact ⟨rfl, rfl⟩

/-- The host leaves the amplifier as it was and does not begin SHUTDOWN's wait. -/
def LeavesAmplifier (g h : HostState) : Prop :=
  h.ampOn = g.ampOn ∧ (g.phase ≠ .polling true → h.phase ≠ .polling true)

/-- A continuation after which the amplifier is as it was and the host is not in SHUTDOWN's wait. -/
def Quiet (k : Response → State → State) : Prop :=
  ∀ r u, (k r u).host.ampOn = u.host.ampOn ∧ (k r u).host.phase ≠ .polling true

theorem hostFinish_quiet (res : HostResult) : Quiet fun _ => hostFinish res := fun _ _ => ⟨rfl, nofun⟩

theorem hostPhase_quiet {p : HostPhase} (hp : p ≠ .polling true) : Quiet fun _ => hostPhase p :=
  fun _ _ => ⟨rfl, hp⟩

theorem continueMono_quiet (rest : List Imm16) : Quiet fun _ => continueMono rest := by
  cases rest with
  | nil => exact hostFinish_quiet .ok
  | cons => exact hostPhase_quiet nofun

theorem continueStereo_quiet (rest : List Imm16) : Quiet fun _ => continueStereo rest := by
  cases rest with
  | nil => exact hostFinish_quiet .ok
  | cons => exact hostPhase_quiet nofun

theorem playCheck_quiet {begin : State → State} (h : Quiet fun _ => begin) : Quiet (playCheck begin) := by
  intro r u
  unfold playCheck
  split
  · exact hostFinish_quiet .notReady r u
  · split
    · exact hostFinish_quiet .ok r u
    · exact h r u

theorem unlessHwError_quiet {k : State → State} (h : Quiet fun _ => k) : Quiet (unlessHwError k) := by
  intro r u
  unfold unlessHwError
  split
  · exact hostFinish_quiet (.hardwareWriteError r.data) r u
  · exact h r u

theorem afterMono_quiet (rest : List Imm16) : Quiet (afterMono rest) := by
  intro r u
  unfold afterMono
  split
  · exact hostFinish_quiet .notReady r u
  · exact unlessHwError_quiet (continueMono_quiet rest) r u

/-- RAMPWAIT polls, but does not disable the amplifier (R98). -/
theorem afterPoll_quiet : Quiet (afterPoll false) := by
  intro r u
  unfold afterPoll
  split
  · exact hostFinish_quiet .done r u
  · exact hostPhase_quiet (p := .polling false) nofun r u

/-- A command with a quiet continuation leaves the amplifier alone, since no command touches the host. -/
theorem ask_leavesAmplifier {i : Instr} {k : Response → State → State} {s t : State} (hk : Quiet k)
    (h : ask i k s = .next t) : LeavesAmplifier s.host t.host := by
  obtain ⟨u, r, hu, -, rfl⟩ := ask_cases h
  obtain ⟨hamp, hphase⟩ := hk r u
  exact ⟨hamp.trans (congrArg (·.ampOn) (command_sameSurroundings hu).host), fun _ => hphase⟩

/-- What a turn of the host can mean for the amplifier: nothing, BRINGUP's INIT, SHUTDOWN's MUTE, or a poll of
SHUTDOWN's wait. -/
inductive AmplifierTurn (s t : State) : Prop
  | left : LeavesAmplifier s.host t.host → AmplifierTurn s t
  | bringup (ts : List HostTask) : s.host.phase = .idle → s.host.tasks = .bringup :: ts → AmplifierTurn s t
  | shutdown (ts : List HostTask) : s.host.phase = .idle → s.host.tasks = .shutdown :: ts → AmplifierTurn s t
  | poll : s.host.phase = .polling true → AmplifierTurn s t

/-- A task that is neither BRINGUP nor SHUTDOWN leaves the amplifier alone as it begins. -/
theorem startTask_leavesAmplifier {task : HostTask} {s t : State} (hb : task ≠ .bringup) (hs : task ≠ .shutdown)
    (h : startTask task s = .next t) : LeavesAmplifier s.host t.host := by
  cases task with
  | word w =>
    obtain ⟨u, hu⟩ := command_next w s
    simp only [startTask, hu] at h
    cases h
    exact ⟨congrArg (·.ampOn) (command_sameSurroundings hu).host, fun _ => nofun⟩
  | emits l r => exact ask_leavesAmplifier (unlessHwError_quiet (hostPhase_quiet (p := .emitRight r) nofun)) h
  | playM buf => exact ask_leavesAmplifier (i := .rdst) (playCheck_quiet (continueMono_quiet buf)) h
  | playS buf =>
    simp only [startTask] at h
    split at h
    · exact ask_leavesAmplifier (playCheck_quiet (continueStereo_quiet buf)) h
    · cases h
  | rampWait => exact ask_leavesAmplifier (i := .rdst) afterPoll_quiet h
  | bringup => exact absurd rfl hb
  | shutdown => exact absurd rfl hs

theorem hostTurn_amplifierTurn {s t : State} (h : hostTurn s = .next t) : AmplifierTurn s t := by
  cases hp : s.host.phase with
  | idle =>
    cases ht : s.host.tasks with
    | nil =>
      rw [hostTurn_waits hp ht] at h
      cases h
      exact .left ⟨rfl, id⟩
    | cons task ts =>
      by_cases hb : task = .bringup
      · exact .bringup ts hp (hb ▸ ht)
      by_cases hs : task = .shutdown
      · exact .shutdown ts hp (hs ▸ ht)
      rw [hostTurn_begins hp ht] at h
      exact .left (startTask_leavesAmplifier (s := withTasks ts s) hb hs h)
  | emitRight r =>
    rw [hostTurn_emitRight hp] at h
    exact .left (ask_leavesAmplifier (unlessHwError_quiet (hostFinish_quiet .done)) h)
  | playMono left =>
    cases left with
    | nil =>
      simp only [hostTurn, hp] at h
      cases h
      exact .left ⟨rfl, fun _ => nofun⟩
    | cons x rest =>
      rw [hostTurn_playMono hp] at h
      exact .left (ask_leavesAmplifier (afterMono_quiet rest) h)
  | playStereo left =>
    match left with
    | [] =>
      simp only [hostTurn, hp] at h
      cases h
      exact .left ⟨rfl, fun _ => nofun⟩
    | [_] =>
      simp only [hostTurn, hp] at h
      cases h
    | _ :: r :: rest =>
      rw [hostTurn_playStereo hp] at h
      exact .left (ask_leavesAmplifier (unlessHwError_quiet (hostPhase_quiet (p := .playStereoRight r rest) nofun)) h)
  | playStereoRight r rest =>
    rw [hostTurn_playStereoRight hp] at h
    exact .left (ask_leavesAmplifier (unlessHwError_quiet (continueStereo_quiet rest)) h)
  | polling b =>
    cases b with
    | true => exact .poll hp
    | false =>
      rw [hostTurn_polling hp] at h
      exact .left (ask_leavesAmplifier afterPoll_quiet h)
  | unmuting =>
    rw [hostTurn_unmuting hp] at h
    exact .left (ask_leavesAmplifier (hostFinish_quiet .done) h)

/-- A step is a turn of the host, or leaves the amplifier alone. -/
theorem step_hostTurn_or_leavesAmplifier {s t : State} (h : step s = .next t) :
    hostTurn { s with turns := s.turns.tail } = .next t ∨ LeavesAmplifier s.host t.host := by
  have hc := legal_of_step h
  have unmoved {g : HostState} (hg : g.phase = s.host.phase ∧ g.ampOn = s.host.ampOn) : LeavesAmplifier s.host g :=
    ⟨hg.2, fun hne => hg.1 ▸ hne⟩
  cases hts : s.turns with
  | nil =>
    by_cases hr : s.timerRun = true
    · rw [step_timer hc hts hr] at h
      exact .inr (unmoved (takeTurn_keeps_phase (x := .tick) nofun h))
    · rw [← hts, ← step_hostsTurn hc (.inr ⟨hts, by simpa using hr⟩)]
      exact .inl h
  | cons x ts =>
    by_cases hx : x = .host
    · rw [← hts, ← step_hostsTurn hc (.inl ⟨ts, hx ▸ hts⟩)]
      exact .inl h
    · rw [step_turn hc hts] at h
      exact .inr (unmoved (takeTurn_keeps_phase (s := { s with turns := ts }) hx h))

/-- After MUTE an initialised device is muted (41_ramp.md R73). -/
theorem exec_mute_muted {s t : State} (h : exec .mute s = .next t) (hi : s.inited = true) : t.muted = true := by
  by_cases hm : s.muted = dirMuted .toMute
  · cases (exec_dirCommand_noop hi hm).symm.trans h
    exact hm
  · cases (exec_dirCommand_starts hi hm).symm.trans h
    simp [rampStart_eq, dirMuted]

section Switch

variable {s t : State} {ts : List HostTask}

/-- The step is this command of the task that the host takes off its list; the host goes on with the response. -/
def IssuesFirst (i : Instr) (s t : State) : Prop :=
  exec i { s with turns := t.turns, host := { s.host with tasks := t.host.tasks } } =
    .next { t with host := { s.host with tasks := t.host.tasks } }

/-- BRINGUP's first turn enables the amplifier exactly on an INIT that is answered `(OK, 0)`. -/
theorem bringup_amplifier (hp : s.host.phase = .idle) (ht : s.host.tasks = .bringup :: ts)
    (h : hostTurn s = .next t) :
    LeavesAmplifier s.host t.host ∨
      t.host = unmutingHost s.host ts ∧ IssuesFirst .init s t ∧ t.responses = s.responses ++ [⟨.ok, 0#32⟩] ∧
        t.inited = true ∧
        (s.inited = false → t.pwmL = some (silencePulse s.cfg) ∧ t.pwmR = some (silencePulse s.cfg)) := by
  cases hi : s.inited with
  | true =>
    cases (bringup_again hp ht hi).symm.trans h
    exact .inr ⟨rfl, exec_init_done (s := withTasks ts s) hi, rfl, hi, nofun⟩
  | false =>
    by_cases hb : BothReady s
    · cases (bringup_first hp ht hi hb).symm.trans h
      have first := exec_init_first (s := withTasks ts s) hi
      rw [initDevice_ready (s := withTasks ts s) hb.1 hb.2] at first
      exact .inr ⟨rfl, first, rfl, rfl, fun _ => ⟨rfl, rfl⟩⟩
    · cases (bringup_notReady hp ht hi hb).symm.trans h
      exact .inl ⟨rfl, fun _ => nofun⟩

/-- SHUTDOWN's first turn is its MUTE, and its wait begins. -/
theorem shutdown_amplifier (hp : s.host.phase = .idle) (ht : s.host.tasks = .shutdown :: ts)
    (h : hostTurn s = .next t) : t.host = waitingHost s.host ts ∧ IssuesFirst .mute s t ∧
      (s.inited = true → t.muted = true) := by
  rw [hostTurn_shutdown hp ht] at h
  obtain ⟨u, r, hu, -, rfl⟩ := ask_cases h
  rw [command_legal (decode_encode (i := .mute) rfl)] at hu
  obtain ⟨-, -, -, hturns, hhost⟩ := exec_sameSurroundings hu
  have kept : { s.host with tasks := u.host.tasks } = u.host := by
    rw [hhost]
    rfl
  have issuing : { s with turns := u.turns, host := { s.host with tasks := u.host.tasks } } = withTasks ts s := by
    rw [kept, hturns, hhost]
    rfl
  refine ⟨?_, ?_, exec_mute_muted (s := withTasks ts s) (t := u) hu⟩
  · rw [hostPhase, hhost]
    rfl
  · change exec .mute { s with turns := u.turns, host := { s.host with tasks := u.host.tasks } } =
      .next { u with host := { s.host with tasks := u.host.tasks } }
    rw [issuing, hu, kept]

/-- A poll of SHUTDOWN's wait that finds a ramp leaves the amplifier; one that finds Idle ends the wait with the
amplifier off. -/
theorem poll_amplifier (hp : s.host.phase = .polling true) (h : hostTurn s = .next t) :
    t.host.ampOn = s.host.ampOn ∨
      t.host.ampOn = false ∧ t.host.phase = .idle ∧ s.fsm = .idle ∧ t.fsm = .idle ∧
        t.responses = s.responses ++ [⟨.ok, statusWord s⟩] := by
  by_cases hf : s.fsm = .idle
  · cases (polling_idle hp hf).symm.trans h
    exact .inr ⟨Bool.and_false _, rfl, hf, hf, rfl⟩
  · cases ((hostTurn_polling hp).trans (ask_poll_ramp hf true)).symm.trans h
    exact .inl rfl

end Switch

/-- Settles O59: the amplifier and SHUTDOWN's wait change only in the host's first turn of BRINGUP, its first turn of
SHUTDOWN, and a poll of that wait. -/
theorem amplifierFollowsInitAndMute : Obligations.AmplifierFollowsInitAndMute := by
  intro s t h
  have unswitched (hamp : t.host.ampOn = s.host.ampOn) {b : Bool} {P : Prop} (h0 : s.host.ampOn = b)
      (h1 : t.host.ampOn = !b) : P := by simp [hamp, h0] at h1
  have unmoved {P Q R : Prop} (kept : LeavesAmplifier s.host t.host) :
      (s.host.ampOn = false → t.host.ampOn = true → P) ∧
        (s.host.phase ≠ .polling true → t.host.phase = .polling true → Q) ∧
        (s.host.ampOn = true → t.host.ampOn = false → R) :=
    ⟨unswitched kept.1, fun h0 h1 => absurd h1 (kept.2 h0), unswitched kept.1⟩
  rcases step_hostTurn_or_leavesAmplifier h with hturn | kept
  · cases hostTurn_amplifierTurn hturn with
    | left kept => exact unmoved kept
    | bringup ts hp ht =>
      rcases bringup_amplifier hp ht hturn with kept | ⟨hhost, issued, answered⟩
      · exact unmoved kept
      · have htasks : s.host.tasks = .bringup :: t.host.tasks := hhost ▸ ht
        exact ⟨fun _ _ => ⟨hp, htasks, congrArg (·.phase) hhost, issued, answered⟩,
          fun _ h1 => by simp [hhost, unmutingHost] at h1, fun _ h1 => by simp [hhost, unmutingHost] at h1⟩
    | shutdown ts hp ht =>
      obtain ⟨hhost, answered⟩ := shutdown_amplifier hp ht hturn
      have hamp : t.host.ampOn = s.host.ampOn := congrArg (·.ampOn) hhost
      have htasks : s.host.tasks = .shutdown :: t.host.tasks := hhost ▸ ht
      exact ⟨unswitched hamp, fun _ _ => ⟨hp, htasks, hamp, answered⟩, unswitched hamp⟩
    | poll hp =>
      rcases poll_amplifier hp hturn with hamp | ⟨hoff, ended⟩
      · exact ⟨unswitched hamp, fun h0 _ => absurd hp h0, unswitched hamp⟩
      · exact ⟨fun _ h1 => by simp [hoff] at h1, fun h0 _ => absurd hp h0, fun _ _ => ⟨hp, ended⟩⟩
  · exact unmoved kept

end Sys2Proof.Machine

/-! ### Infinite runs and fairness (70_reset_and_hazards.md R132) -/

namespace Sys2Proof.Machine

theorem stepWith_cfg {x : Turn} {s t : State} (h : stepWith x s = .next t) : t.cfg = s.cfg :=
  step_cfg (s := { s with turns := x :: s.turns }) h

theorem stepWith_invariant {x : Turn} {s t : State} (hs : Invariant s) (h : stepWith x s = .next t) : Invariant t :=
  stepKeepsTheInvariant _ t (hs.withSurroundings _ _ _ _ (x :: s.turns) _) h

/-- Every state of a run has the parameters of the first, and the invariant. -/
theorem InfiniteRun.legal_invariant {sched : Nat → Turn} {states : Nat → State} (hrun : InfiniteRun sched states)
    (hc : legal (states 0).cfg) (h : Invariant (states 0)) (m : Nat) :
    legal (states m).cfg ∧ Invariant (states m) := by
  induction m with
  | zero => exact ⟨hc, h⟩
  | succ m ih =>
    obtain ⟨hcm, hm⟩ := ih
    exact ⟨stepWith_cfg (hrun m) ▸ hcm, stepWith_invariant hm (hrun m)⟩

/-- How many ticks the ramp in progress still owes; none in Idle. -/
def stepsLeft (s : State) : Nat := if s.fsm = .idle then 0 else s.cfg.stepCount - s.progress.toNat

theorem stepsLeft_idle {s : State} (hf : s.fsm = .idle) : stepsLeft s = 0 := if_pos hf

theorem stepsLeft_ramp {s : State} (hf : s.fsm ≠ .idle) : stepsLeft s = s.cfg.stepCount - s.progress.toNat :=
  if_neg hf

/-- A running ramp owes at least one tick (10_state.md R20 item 2). -/
theorem Invariant.stepsLeft_eq_zero {s : State} (h : Invariant s) : stepsLeft s = 0 ↔ s.fsm = .idle := by
  refine ⟨fun h0 => ?_, stepsLeft_idle⟩
  by_contra hf
  have hlt := h.progress_lt
  rw [stepsLeft_ramp hf] at h0
  omega

/-- A tick pays one of the ticks owed. -/
theorem stepsLeft_timerTurn {s : State} (hc : legal s.cfg) (h : Invariant s) :
    stepsLeft (timerTurn s) = stepsLeft s - 1 := by
  by_cases hf : s.fsm = .idle
  · rw [timerTurn_stopped (h.idle_timerRun hf), stepsLeft_idle hf]
  obtain ⟨dir, hdir⟩ := exists_dirFsm hf
  have hlt := h.progress_lt
  rw [stepsLeft_ramp hf]
  by_cases hp : s.progress.toNat + 1 = s.cfg.stepCount
  · rw [timerTurn_lastStep (h.ramp_timerRun hdir) hdir hp, stepsLeft_idle (rampEnd_fsm _ _)]
    omega
  · have counted := nextProgress_toNat hc (s := s) (by omega)
    rw [timerTurn_midRamp (h.ramp_timerRun hdir) hdir hp, stepsLeft_ramp (by exact hf), counted]
    rfl

/-- A command that leaves MUTED as it is starts no ramp, so the ticks owed stay (41_ramp.md R72). -/
theorem CommandEffect.stepsLeft_eq {i : Instr} {s t : State} (he : CommandEffect i s t) (hm : t.muted = s.muted) :
    stepsLeft t = stepsLeft s := by
  cases he with
  | ramped dir _ _ flips =>
    rw [respond_muted, rampStart_eq] at hm
    exact absurd hm.symm flips
  | answered | inited | emitted | volumeSet => rfl

theorem command_stepsLeft {w : Word} {s t : State} (h : command w s = .next t) (hm : t.muted = s.muted) :
    stepsLeft t = stepsLeft s := by
  unfold command at h
  split at h
  · exact (exec_effect h).stepsLeft_eq hm
  · cases h
    rfl

theorem HostMove.stepsLeft_eq {s t : State} (h : HostMove s t) : t.muted = s.muted → stepsLeft t = stepsLeft s :=
  h.elim (P := fun u => u.muted = s.muted → stepsLeft u = stepsLeft s) (fun _ _ => rfl)
    fun _ g _ u hu => command_stepsLeft (s := { s with host := g }) (t := u) hu

/-- No step that leaves MUTED as it is adds to the ticks owed. -/
theorem step_stepsLeft_le {s t : State} (h : Invariant s) (hs : step s = .next t) (hm : t.muted = s.muted) :
    stepsLeft t ≤ stepsLeft s := by
  obtain ⟨hc, ts, ⟨w, hw⟩ | rfl | hhost | ⟨-, rfl⟩ | ⟨l, r, rfl⟩ | ⟨-, rfl⟩⟩ := step_cases hs
  · exact (command_stepsLeft (s := { s with turns := ts }) hw hm).le
  · exact le_rfl
  · exact (HostMove.stepsLeft_eq (s := { s with turns := ts }) hhost hm).le
  · rw [stepsLeft_timerTurn (s := { s with turns := ts }) hc (h.withSurroundings _ _ _ _ ts _)]
    exact Nat.sub_le _ _
  · exact le_rfl
  · exact Nat.zero_le _

section Fairness

variable {sched : Nat → Turn} {states : Nat → State} {n : Nat}
  (hrun : InfiniteRun sched states)
  (hinv : ∀ m, legal (states m).cfg ∧ Invariant (states m))
  (hmuted : ∀ m, n ≤ m → (states m).muted = (states n).muted)
include hrun hinv hmuted

/-- From the point on where MUTED stays, the ticks owed never grow. -/
theorem stepsLeft_antitone {m k : Nat} (hn : n ≤ m) (hk : m ≤ k) :
    stepsLeft (states k) ≤ stepsLeft (states m) := by
  induction k, hk using Nat.le_induction with
  | base => exact le_rfl
  | succ k hk ih =>
    obtain ⟨-, h⟩ := hinv k
    have muted : (states (k + 1)).muted = (states k).muted :=
      (hmuted _ (by omega)).trans (hmuted k (by omega)).symm
    exact (step_stepsLeft_le (h.withSurroundings _ _ _ _ (sched k :: (states k).turns) _) (hrun k) muted).trans ih

/-- Fairness brings the ticks owed, one after another, until none is. -/
theorem exists_stepsLeft_eq_zero (hfair : Fair sched states) (d : Nat) :
    ∀ m, n ≤ m → stepsLeft (states m) ≤ d → ∃ k, n ≤ k ∧ stepsLeft (states k) = 0 := by
  induction d with
  | zero => exact fun m hn h0 => ⟨m, hn, Nat.le_zero.1 h0⟩
  | succ d ih =>
    intro m hn hd
    obtain ⟨k, hk, hstopped | htick⟩ := hfair m
    · exact ⟨k, hn.trans hk, stepsLeft_idle ((hinv k).2.idle_of_stopped hstopped)⟩
    · obtain ⟨hc, h⟩ := hinv k
      have fewer := stepsLeft_antitone hrun hinv hmuted hn hk
      have ticked := hrun k
      rw [stepWith_of_legal hc, htick] at ticked
      have paid := stepsLeft_timerTurn hc h
      rw [Host.Outcome.next.inj ticked] at paid
      exact ih (k + 1) (by omega) (by omega)

/-- A fair run reaches Idle, and stays there while no request starts a ramp. -/
theorem idle_for_good (hfair : Fair sched states) : ∃ m, n ≤ m ∧ ∀ k, m ≤ k → (states k).fsm = .idle := by
  obtain ⟨m, hn, h0⟩ := exists_stepsLeft_eq_zero hrun hinv hmuted hfair _ n le_rfl le_rfl
  refine ⟨m, hn, fun k hk => ?_⟩
  have still := stepsLeft_antitone hrun hinv hmuted hn hk
  rw [h0] at still
  exact (hinv k).2.stepsLeft_eq_zero.1 (Nat.le_zero.1 still)

end Fairness

/-- A wait goes on or ends, whoever has the turn. -/
theorem stepWith_polling {x : Turn} {s t : State} {b : Bool} (hc : legal s.cfg) (hp : s.host.phase = .polling b)
    (h : stepWith x s = .next t) : t.host.phase = .polling b ∨ t.host.phase = .idle := by
  rw [stepWith_of_legal hc] at h
  by_cases hx : x = .host
  · subst hx
    by_cases hf : s.fsm = .idle
    · cases (polling_idle hp hf).symm.trans h
      exact .inr rfl
    · cases ((hostTurn_polling hp).trans (ask_poll_ramp hf b)).symm.trans h
      exact .inl rfl
  · exact .inl ((takeTurn_keeps_phase hx h).1.trans hp)

/-- Along a run a wait either lasts or has ended somewhere. -/
theorem InfiniteRun.polling_or_ended {sched : Nat → Turn} {states : Nat → State} {n m : Nat} {b : Bool}
    (hrun : InfiniteRun sched states) (hc : ∀ k, legal (states k).cfg) (hp : (states n).host.phase = .polling b)
    (hn : n ≤ m) :
    (states m).host.phase = .polling b ∨ ∃ k, n ≤ k ∧ (states k).host.phase = .idle := by
  induction m, hn using Nat.le_induction with
  | base => exact .inl hp
  | succ m hn ih =>
    rcases ih with hpm | ended
    · exact (stepWith_polling (hc m) hpm (hrun m)).imp_right fun hidle => ⟨m + 1, by omega, hidle⟩
    · exact .inr ended

/-- Settles O50: the ticks owed run down to none under fairness, and the next poll after that ends the wait. -/
theorem fairRampsAndWaitsEnd : Obligations.FairRampsAndWaitsEnd := by
  intro sched states n hc h hrun hfair hmuted
  have hinv := hrun.legal_invariant hc h
  obtain ⟨m, hn, hidle⟩ := idle_for_good hrun hinv hmuted hfair
  refine ⟨⟨m, hn, fun k hk => ⟨hidle k hk, (hinv k).2.idle_timerRun (hidle k hk)⟩⟩, fun b hp hturns => ?_⟩
  obtain ⟨k, hk, hhost⟩ := hturns m
  rcases hrun.polling_or_ended (fun j => (hinv j).1) hp (hn.trans hk) with hpk | ended
  · have polled := hrun k
    rw [stepWith_of_legal (hinv k).1, hhost] at polled
    have ended := (polling_idle hpk (hidle k hk)).symm.trans polled
    refine ⟨k + 1, by omega, ?_⟩
    rw [← Host.Outcome.next.inj ended]
  · exact ended

/-! ### A host that alternates MUTE and UNMUTE (R132) -/

/-- MUTE, tick, UNMUTE, tick, for ever. -/
def alternating (n : Nat) : Turn :=
  if n % 4 = 0 then .word 0x20000000#32 else if n % 4 = 2 then .word 0x21000000#32 else .tick

/-- The direction of the ramp in progress before step `n` of that schedule, begun in an unmute ramp. -/
def alternatingDir (n : Nat) : Dir := if n % 4 = 1 ∨ n % 4 = 2 then .toMute else .toUnmute

/-- At an even step the schedule turns the ramp round. -/
theorem alternating_even {n : Nat} (h : n % 2 = 0) :
    alternating n = .word (encode (dirCommand (alternatingDir (n + 1)))) ∧
      dirMuted (alternatingDir n) ≠ dirMuted (alternatingDir (n + 1)) := by
  unfold alternating alternatingDir
  rcases (by omega : n % 4 = 0 ∨ n % 4 = 2) with h4 | h4
  · have next : (n + 1) % 4 = 1 := by omega
    simp only [h4, next]
    decide
  · have next : (n + 1) % 4 = 3 := by omega
    simp only [h4, next]
    decide

/-- At an odd step the ramp just turned round has a tick. -/
theorem alternating_odd {n : Nat} (h : n % 2 = 1) :
    alternating n = .tick ∧ alternatingDir (n + 1) = alternatingDir n := by
  unfold alternating alternatingDir
  rcases (by omega : n % 4 = 1 ∨ n % 4 = 3) with h4 | h4
  · have next : (n + 1) % 4 = 2 := by omega
    simp only [h4, next]
    decide
  · have next : (n + 1) % 4 = 0 := by omega
    simp only [h4, next]
    decide

/-- What holds before step `n` of the schedule: a ramp of two or more steps runs, which a request has just begun if a
tick is next. -/
structure Alternates (n : Nat) (s : State) : Prop where
  legal : legal s.cfg
  invariant : Invariant s
  steps : 1 < s.cfg.stepCount
  ramp : s.fsm = dirFsm (alternatingDir n)
  begun : n % 2 = 1 → s.progress = 0#16

/-- The first tick of a ramp of two or more steps does not end it; a request starts one afresh. -/
theorem Alternates.next {n : Nat} {s : State} (h : Alternates n s) :
    ∃ t, stepWith (alternating n) s = .next t ∧ Alternates (n + 1) t := by
  obtain ⟨hc, hinv, hsteps, hf, hbegun⟩ := h
  have hr := hinv.ramp_timerRun hf
  have onward {t : State} (ht : stepWith (alternating n) s = .next t) (hft : t.fsm = dirFsm (alternatingDir (n + 1)))
      (hp : (n + 1) % 2 = 1 → t.progress = 0#16) : Alternates (n + 1) t :=
    have hcfg := stepWith_cfg ht
    ⟨hcfg ▸ hc, stepWith_invariant hinv ht, hcfg ▸ hsteps, hft, hp⟩
  rcases Nat.mod_two_eq_zero_or_one n with heven | hodd
  · obtain ⟨hturn, hturns⟩ := alternating_even heven
    have requested : stepWith (alternating n) s = .next (respond .ok 1#32 (rampStart (alternatingDir (n + 1)) s)) := by
      rw [stepWith_of_legal hc, hturn]
      exact (command_legal (decode_encode (dirCommand_wellFormed _)) s).trans
        (exec_dirCommand_starts (hinv.timer_inited hr) (hinv.ramp_muted hf ▸ hturns))
    exact ⟨_, requested, onward requested (by simp [rampStart_eq]) fun _ => by simp [rampStart_eq]⟩
  · obtain ⟨hturn, hdir⟩ := alternating_odd hodd
    have hp : s.progress.toNat + 1 ≠ s.cfg.stepCount := by
      rw [hbegun hodd]
      exact hsteps.ne
    have ticked : stepWith (alternating n) s = .next (timerTurn s) := by
      rw [stepWith_of_legal hc, hturn]
      rfl
    refine ⟨_, ticked, onward ticked ?_ (by omega)⟩
    rw [timerTurn_midRamp hr hf hp, hdir]
    exact hf

theorem statesOf_succ {sched : Nat → Turn} {s t : State} {n : Nat}
    (h : stepWith (sched n) (statesOf sched s n) = .next t) : statesOf sched s (n + 1) = t := by
  rw [statesOf, h]

theorem alternates_statesOf {s : State} (h : Alternates 0 s) (n : Nat) : Alternates n (statesOf alternating s n) := by
  induction n with
  | zero => exact h
  | succ n ih =>
    obtain ⟨t, ht, hnext⟩ := ih.next
    rw [statesOf_succ ht]
    exact hnext

/-- Settles O51: each request starts the ramp afresh before the tick that follows could end it. -/
theorem alternatingRequestsNeverEndARamp : Obligations.AlternatingRequestsNeverEndARamp := by
  intro s hc h hf hsteps
  have alternates := alternates_statesOf (s := s) ⟨hc, h, hsteps, hf, nofun⟩
  refine ⟨statesOf alternating s, rfl, infiniteRun_statesOf fun n => ?_, fun n => ⟨2 * n + 1, by omega, .inr ?_⟩,
    fun n => ?_⟩
  · obtain ⟨t, ht, -⟩ := (alternates n).next
    exact ⟨t, ht⟩
  · exact (alternating_odd (by omega)).1
  · have hfn := (alternates n).ramp
    exact ⟨(alternates n).invariant.ramp_timerRun hfn, hfn ▸ dirFsm_ne_idle _⟩

end Sys2Proof.Machine
